-- ==== Sys2Proof/Word.lean ====
section
/-!
DEFINITION. The word types of the Uxn core (rules R7, R9, R10 of spec/00_scope.md) and the two operand
widths an instruction can have (rule R124 of spec/30_encoding.md).
-/

namespace Sys2Proof

/-- A byte: the data width of the core (R7). -/
abbrev Byte := BitVec 8

/-- A short: a 16-bit address or short-mode value (R7, R9). -/
abbrev Word := BitVec 16

/-- The operand width `w` of an instruction: 8 bits, or 16 when the short bit is set (R124). -/
inductive Width
  | byte
  | short
  deriving DecidableEq, Repr

/-- `w`, the number of bits of a value of this width (R10). -/
@[reducible] def Width.bits : Width → Nat
  | .byte => 8
  | .short => 16

/-- `W = w / 8`, the number of bytes of a value of this width (R10). -/
def Width.bytes : Width → Nat
  | .byte => 1
  | .short => 2

end Sys2Proof
end

