-- ==== Sys2Proof/Syntax.lean ====
section
/-!
DEFINITION. The instructions of the Uxn core: one constructor for each of the 256 rows of spec/opcode_table.json
(R131 of spec/30_encoding.md), named after the row's mnemonic (R130). All operands come from the stacks but the
immediate of the four LIT forms, which its constructor carries (R120, R126). A suffix `2` is short mode, `k` keep
mode, `r` return mode.
-/

namespace Sys2Proof

/-- An instruction of the core. -/
inductive Instr
  | brk
  | nop20
  | nop40
  | nop60
  | lit (imm : Byte)
  | lit2 (imm : Word)
  | litr (imm : Byte)
  | lit2r (imm : Word)
  | inc | inc2 | incr | inc2r | inck | inc2k | inckr | inc2kr
  | pop | pop2 | popr | pop2r | popk | pop2k | popkr | pop2kr
  | nip | nip2 | nipr | nip2r | nipk | nip2k | nipkr | nip2kr
  | swp | swp2 | swpr | swp2r | swpk | swp2k | swpkr | swp2kr
  | rot | rot2 | rotr | rot2r | rotk | rot2k | rotkr | rot2kr
  | dup | dup2 | dupr | dup2r | dupk | dup2k | dupkr | dup2kr
  | ovr | ovr2 | ovrr | ovr2r | ovrk | ovr2k | ovrkr | ovr2kr
  | equ | equ2 | equr | equ2r | equk | equ2k | equkr | equ2kr
  | neq | neq2 | neqr | neq2r | neqk | neq2k | neqkr | neq2kr
  | gth | gth2 | gthr | gth2r | gthk | gth2k | gthkr | gth2kr
  | lth | lth2 | lthr | lth2r | lthk | lth2k | lthkr | lth2kr
  | jmp | jmp2 | jmpr | jmp2r | jmpk | jmp2k | jmpkr | jmp2kr
  | jcn | jcn2 | jcnr | jcn2r | jcnk | jcn2k | jcnkr | jcn2kr
  | jsr | jsr2 | jsrr | jsr2r | jsrk | jsr2k | jsrkr | jsr2kr
  | sth | sth2 | sthr | sth2r | sthk | sth2k | sthkr | sth2kr
  | ldz | ldz2 | ldzr | ldz2r | ldzk | ldz2k | ldzkr | ldz2kr
  | stz | stz2 | stzr | stz2r | stzk | stz2k | stzkr | stz2kr
  | ldr | ldr2 | ldrr | ldr2r | ldrk | ldr2k | ldrkr | ldr2kr
  | str | str2 | strr | str2r | strk | str2k | strkr | str2kr
  | lda | lda2 | ldar | lda2r | ldak | lda2k | ldakr | lda2kr
  | sta | sta2 | star | sta2r | stak | sta2k | stakr | sta2kr
  | dei | dei2 | deir | dei2r | deik | dei2k | deikr | dei2kr
  | deo | deo2 | deor | deo2r | deok | deo2k | deokr | deo2kr
  | add | add2 | addr | add2r | addk | add2k | addkr | add2kr
  | sub | sub2 | subr | sub2r | subk | sub2k | subkr | sub2kr
  | mul | mul2 | mulr | mul2r | mulk | mul2k | mulkr | mul2kr
  | div | div2 | divr | div2r | divk | div2k | divkr | div2kr
  | and | and2 | andr | and2r | andk | and2k | andkr | and2kr
  | ora | ora2 | orar | ora2r | orak | ora2k | orakr | ora2kr
  | eor | eor2 | eorr | eor2r | eork | eor2k | eorkr | eor2kr
  | sft | sft2 | sftr | sft2r | sftk | sft2k | sftkr | sft2kr
  deriving DecidableEq, Repr

end Sys2Proof
end

