-- ==== Sys2Proof/Decode.lean ====
section
/-!
DEFINITION. The byte-order helpers (R88), the decoder and the encoder of the Uxn core (spec/30_encoding.md).
The decoder splits the opcode byte into its three mode bits and its 5-bit base (R121, R134); the encoder is the
opcode table, written out byte by byte, followed by the immediate (R126, R129).
-/

namespace Sys2Proof

/-! ## Byte order -/

/-- `hi(v) = v[15:8]` (R10). -/
def hiByte (v : Word) : Byte := v.extractLsb' 8 8

/-- `lo(v) = v[7:0]` (R10). -/
def loByte (v : Word) : Byte := v.extractLsb' 0 8

/-- `hi:lo`, the big-endian short of two bytes (R10, R88). -/
def joinBytes (hi lo : Byte) : Word := hi ++ lo

/-! ## Modes and base operations -/

/-- The three mode bits of an opcode byte (R121): keep `k = op[7]`, return `r = op[6]`, short `s = op[5]`,
in this order. -/
structure Mode where
  keep  : Bool
  ret   : Bool
  short : Bool
  deriving DecidableEq, Repr

/-- The operand width the short bit selects (R124). -/
def Mode.width (m : Mode) : Width := if m.short then .short else .byte

/-- The 31 base operations, 0x01 to 0x1F in this order (R129, C5). -/
inductive Base
  | inc | pop | nip | swp | rot | dup | ovr | equ
  | neq | gth | lth | jmp | jcn | jsr | sth | ldz
  | stz | ldr | str | lda | sta | dei | deo | add
  | sub | mul | div | and | ora | eor | sft
  deriving DecidableEq, Repr

/-- The base operation of the field `op[4:0]` (R129); base 0x00 is none of them (R125 to R127). -/
def Base.ofBits (field : BitVec 5) : Option Base :=
  match field.toNat with
  | 1 => some .inc | 2 => some .pop | 3 => some .nip | 4 => some .swp
  | 5 => some .rot | 6 => some .dup | 7 => some .ovr | 8 => some .equ
  | 9 => some .neq | 10 => some .gth | 11 => some .lth | 12 => some .jmp
  | 13 => some .jcn | 14 => some .jsr | 15 => some .sth | 16 => some .ldz
  | 17 => some .stz | 18 => some .ldr | 19 => some .str | 20 => some .lda
  | 21 => some .sta | 22 => some .dei | 23 => some .deo | 24 => some .add
  | 25 => some .sub | 26 => some .mul | 27 => some .div | 28 => some .and
  | 29 => some .ora | 30 => some .eor | 31 => some .sft
  | _ => none

/-- The instruction of a base operation in a mode (R130, R131). -/
def Instr.form : Base → Mode → Instr
  | .inc, ⟨false, false, false⟩ => .inc | .inc, ⟨false, false, true⟩ => .inc2
  | .inc, ⟨false, true, false⟩ => .incr | .inc, ⟨false, true, true⟩ => .inc2r
  | .inc, ⟨true, false, false⟩ => .inck | .inc, ⟨true, false, true⟩ => .inc2k
  | .inc, ⟨true, true, false⟩ => .inckr | .inc, ⟨true, true, true⟩ => .inc2kr
  | .pop, ⟨false, false, false⟩ => .pop | .pop, ⟨false, false, true⟩ => .pop2
  | .pop, ⟨false, true, false⟩ => .popr | .pop, ⟨false, true, true⟩ => .pop2r
  | .pop, ⟨true, false, false⟩ => .popk | .pop, ⟨true, false, true⟩ => .pop2k
  | .pop, ⟨true, true, false⟩ => .popkr | .pop, ⟨true, true, true⟩ => .pop2kr
  | .nip, ⟨false, false, false⟩ => .nip | .nip, ⟨false, false, true⟩ => .nip2
  | .nip, ⟨false, true, false⟩ => .nipr | .nip, ⟨false, true, true⟩ => .nip2r
  | .nip, ⟨true, false, false⟩ => .nipk | .nip, ⟨true, false, true⟩ => .nip2k
  | .nip, ⟨true, true, false⟩ => .nipkr | .nip, ⟨true, true, true⟩ => .nip2kr
  | .swp, ⟨false, false, false⟩ => .swp | .swp, ⟨false, false, true⟩ => .swp2
  | .swp, ⟨false, true, false⟩ => .swpr | .swp, ⟨false, true, true⟩ => .swp2r
  | .swp, ⟨true, false, false⟩ => .swpk | .swp, ⟨true, false, true⟩ => .swp2k
  | .swp, ⟨true, true, false⟩ => .swpkr | .swp, ⟨true, true, true⟩ => .swp2kr
  | .rot, ⟨false, false, false⟩ => .rot | .rot, ⟨false, false, true⟩ => .rot2
  | .rot, ⟨false, true, false⟩ => .rotr | .rot, ⟨false, true, true⟩ => .rot2r
  | .rot, ⟨true, false, false⟩ => .rotk | .rot, ⟨true, false, true⟩ => .rot2k
  | .rot, ⟨true, true, false⟩ => .rotkr | .rot, ⟨true, true, true⟩ => .rot2kr
  | .dup, ⟨false, false, false⟩ => .dup | .dup, ⟨false, false, true⟩ => .dup2
  | .dup, ⟨false, true, false⟩ => .dupr | .dup, ⟨false, true, true⟩ => .dup2r
  | .dup, ⟨true, false, false⟩ => .dupk | .dup, ⟨true, false, true⟩ => .dup2k
  | .dup, ⟨true, true, false⟩ => .dupkr | .dup, ⟨true, true, true⟩ => .dup2kr
  | .ovr, ⟨false, false, false⟩ => .ovr | .ovr, ⟨false, false, true⟩ => .ovr2
  | .ovr, ⟨false, true, false⟩ => .ovrr | .ovr, ⟨false, true, true⟩ => .ovr2r
  | .ovr, ⟨true, false, false⟩ => .ovrk | .ovr, ⟨true, false, true⟩ => .ovr2k
  | .ovr, ⟨true, true, false⟩ => .ovrkr | .ovr, ⟨true, true, true⟩ => .ovr2kr
  | .equ, ⟨false, false, false⟩ => .equ | .equ, ⟨false, false, true⟩ => .equ2
  | .equ, ⟨false, true, false⟩ => .equr | .equ, ⟨false, true, true⟩ => .equ2r
  | .equ, ⟨true, false, false⟩ => .equk | .equ, ⟨true, false, true⟩ => .equ2k
  | .equ, ⟨true, true, false⟩ => .equkr | .equ, ⟨true, true, true⟩ => .equ2kr
  | .neq, ⟨false, false, false⟩ => .neq | .neq, ⟨false, false, true⟩ => .neq2
  | .neq, ⟨false, true, false⟩ => .neqr | .neq, ⟨false, true, true⟩ => .neq2r
  | .neq, ⟨true, false, false⟩ => .neqk | .neq, ⟨true, false, true⟩ => .neq2k
  | .neq, ⟨true, true, false⟩ => .neqkr | .neq, ⟨true, true, true⟩ => .neq2kr
  | .gth, ⟨false, false, false⟩ => .gth | .gth, ⟨false, false, true⟩ => .gth2
  | .gth, ⟨false, true, false⟩ => .gthr | .gth, ⟨false, true, true⟩ => .gth2r
  | .gth, ⟨true, false, false⟩ => .gthk | .gth, ⟨true, false, true⟩ => .gth2k
  | .gth, ⟨true, true, false⟩ => .gthkr | .gth, ⟨true, true, true⟩ => .gth2kr
  | .lth, ⟨false, false, false⟩ => .lth | .lth, ⟨false, false, true⟩ => .lth2
  | .lth, ⟨false, true, false⟩ => .lthr | .lth, ⟨false, true, true⟩ => .lth2r
  | .lth, ⟨true, false, false⟩ => .lthk | .lth, ⟨true, false, true⟩ => .lth2k
  | .lth, ⟨true, true, false⟩ => .lthkr | .lth, ⟨true, true, true⟩ => .lth2kr
  | .jmp, ⟨false, false, false⟩ => .jmp | .jmp, ⟨false, false, true⟩ => .jmp2
  | .jmp, ⟨false, true, false⟩ => .jmpr | .jmp, ⟨false, true, true⟩ => .jmp2r
  | .jmp, ⟨true, false, false⟩ => .jmpk | .jmp, ⟨true, false, true⟩ => .jmp2k
  | .jmp, ⟨true, true, false⟩ => .jmpkr | .jmp, ⟨true, true, true⟩ => .jmp2kr
  | .jcn, ⟨false, false, false⟩ => .jcn | .jcn, ⟨false, false, true⟩ => .jcn2
  | .jcn, ⟨false, true, false⟩ => .jcnr | .jcn, ⟨false, true, true⟩ => .jcn2r
  | .jcn, ⟨true, false, false⟩ => .jcnk | .jcn, ⟨true, false, true⟩ => .jcn2k
  | .jcn, ⟨true, true, false⟩ => .jcnkr | .jcn, ⟨true, true, true⟩ => .jcn2kr
  | .jsr, ⟨false, false, false⟩ => .jsr | .jsr, ⟨false, false, true⟩ => .jsr2
  | .jsr, ⟨false, true, false⟩ => .jsrr | .jsr, ⟨false, true, true⟩ => .jsr2r
  | .jsr, ⟨true, false, false⟩ => .jsrk | .jsr, ⟨true, false, true⟩ => .jsr2k
  | .jsr, ⟨true, true, false⟩ => .jsrkr | .jsr, ⟨true, true, true⟩ => .jsr2kr
  | .sth, ⟨false, false, false⟩ => .sth | .sth, ⟨false, false, true⟩ => .sth2
  | .sth, ⟨false, true, false⟩ => .sthr | .sth, ⟨false, true, true⟩ => .sth2r
  | .sth, ⟨true, false, false⟩ => .sthk | .sth, ⟨true, false, true⟩ => .sth2k
  | .sth, ⟨true, true, false⟩ => .sthkr | .sth, ⟨true, true, true⟩ => .sth2kr
  | .ldz, ⟨false, false, false⟩ => .ldz | .ldz, ⟨false, false, true⟩ => .ldz2
  | .ldz, ⟨false, true, false⟩ => .ldzr | .ldz, ⟨false, true, true⟩ => .ldz2r
  | .ldz, ⟨true, false, false⟩ => .ldzk | .ldz, ⟨true, false, true⟩ => .ldz2k
  | .ldz, ⟨true, true, false⟩ => .ldzkr | .ldz, ⟨true, true, true⟩ => .ldz2kr
  | .stz, ⟨false, false, false⟩ => .stz | .stz, ⟨false, false, true⟩ => .stz2
  | .stz, ⟨false, true, false⟩ => .stzr | .stz, ⟨false, true, true⟩ => .stz2r
  | .stz, ⟨true, false, false⟩ => .stzk | .stz, ⟨true, false, true⟩ => .stz2k
  | .stz, ⟨true, true, false⟩ => .stzkr | .stz, ⟨true, true, true⟩ => .stz2kr
  | .ldr, ⟨false, false, false⟩ => .ldr | .ldr, ⟨false, false, true⟩ => .ldr2
  | .ldr, ⟨false, true, false⟩ => .ldrr | .ldr, ⟨false, true, true⟩ => .ldr2r
  | .ldr, ⟨true, false, false⟩ => .ldrk | .ldr, ⟨true, false, true⟩ => .ldr2k
  | .ldr, ⟨true, true, false⟩ => .ldrkr | .ldr, ⟨true, true, true⟩ => .ldr2kr
  | .str, ⟨false, false, false⟩ => .str | .str, ⟨false, false, true⟩ => .str2
  | .str, ⟨false, true, false⟩ => .strr | .str, ⟨false, true, true⟩ => .str2r
  | .str, ⟨true, false, false⟩ => .strk | .str, ⟨true, false, true⟩ => .str2k
  | .str, ⟨true, true, false⟩ => .strkr | .str, ⟨true, true, true⟩ => .str2kr
  | .lda, ⟨false, false, false⟩ => .lda | .lda, ⟨false, false, true⟩ => .lda2
  | .lda, ⟨false, true, false⟩ => .ldar | .lda, ⟨false, true, true⟩ => .lda2r
  | .lda, ⟨true, false, false⟩ => .ldak | .lda, ⟨true, false, true⟩ => .lda2k
  | .lda, ⟨true, true, false⟩ => .ldakr | .lda, ⟨true, true, true⟩ => .lda2kr
  | .sta, ⟨false, false, false⟩ => .sta | .sta, ⟨false, false, true⟩ => .sta2
  | .sta, ⟨false, true, false⟩ => .star | .sta, ⟨false, true, true⟩ => .sta2r
  | .sta, ⟨true, false, false⟩ => .stak | .sta, ⟨true, false, true⟩ => .sta2k
  | .sta, ⟨true, true, false⟩ => .stakr | .sta, ⟨true, true, true⟩ => .sta2kr
  | .dei, ⟨false, false, false⟩ => .dei | .dei, ⟨false, false, true⟩ => .dei2
  | .dei, ⟨false, true, false⟩ => .deir | .dei, ⟨false, true, true⟩ => .dei2r
  | .dei, ⟨true, false, false⟩ => .deik | .dei, ⟨true, false, true⟩ => .dei2k
  | .dei, ⟨true, true, false⟩ => .deikr | .dei, ⟨true, true, true⟩ => .dei2kr
  | .deo, ⟨false, false, false⟩ => .deo | .deo, ⟨false, false, true⟩ => .deo2
  | .deo, ⟨false, true, false⟩ => .deor | .deo, ⟨false, true, true⟩ => .deo2r
  | .deo, ⟨true, false, false⟩ => .deok | .deo, ⟨true, false, true⟩ => .deo2k
  | .deo, ⟨true, true, false⟩ => .deokr | .deo, ⟨true, true, true⟩ => .deo2kr
  | .add, ⟨false, false, false⟩ => .add | .add, ⟨false, false, true⟩ => .add2
  | .add, ⟨false, true, false⟩ => .addr | .add, ⟨false, true, true⟩ => .add2r
  | .add, ⟨true, false, false⟩ => .addk | .add, ⟨true, false, true⟩ => .add2k
  | .add, ⟨true, true, false⟩ => .addkr | .add, ⟨true, true, true⟩ => .add2kr
  | .sub, ⟨false, false, false⟩ => .sub | .sub, ⟨false, false, true⟩ => .sub2
  | .sub, ⟨false, true, false⟩ => .subr | .sub, ⟨false, true, true⟩ => .sub2r
  | .sub, ⟨true, false, false⟩ => .subk | .sub, ⟨true, false, true⟩ => .sub2k
  | .sub, ⟨true, true, false⟩ => .subkr | .sub, ⟨true, true, true⟩ => .sub2kr
  | .mul, ⟨false, false, false⟩ => .mul | .mul, ⟨false, false, true⟩ => .mul2
  | .mul, ⟨false, true, false⟩ => .mulr | .mul, ⟨false, true, true⟩ => .mul2r
  | .mul, ⟨true, false, false⟩ => .mulk | .mul, ⟨true, false, true⟩ => .mul2k
  | .mul, ⟨true, true, false⟩ => .mulkr | .mul, ⟨true, true, true⟩ => .mul2kr
  | .div, ⟨false, false, false⟩ => .div | .div, ⟨false, false, true⟩ => .div2
  | .div, ⟨false, true, false⟩ => .divr | .div, ⟨false, true, true⟩ => .div2r
  | .div, ⟨true, false, false⟩ => .divk | .div, ⟨true, false, true⟩ => .div2k
  | .div, ⟨true, true, false⟩ => .divkr | .div, ⟨true, true, true⟩ => .div2kr
  | .and, ⟨false, false, false⟩ => .and | .and, ⟨false, false, true⟩ => .and2
  | .and, ⟨false, true, false⟩ => .andr | .and, ⟨false, true, true⟩ => .and2r
  | .and, ⟨true, false, false⟩ => .andk | .and, ⟨true, false, true⟩ => .and2k
  | .and, ⟨true, true, false⟩ => .andkr | .and, ⟨true, true, true⟩ => .and2kr
  | .ora, ⟨false, false, false⟩ => .ora | .ora, ⟨false, false, true⟩ => .ora2
  | .ora, ⟨false, true, false⟩ => .orar | .ora, ⟨false, true, true⟩ => .ora2r
  | .ora, ⟨true, false, false⟩ => .orak | .ora, ⟨true, false, true⟩ => .ora2k
  | .ora, ⟨true, true, false⟩ => .orakr | .ora, ⟨true, true, true⟩ => .ora2kr
  | .eor, ⟨false, false, false⟩ => .eor | .eor, ⟨false, false, true⟩ => .eor2
  | .eor, ⟨false, true, false⟩ => .eorr | .eor, ⟨false, true, true⟩ => .eor2r
  | .eor, ⟨true, false, false⟩ => .eork | .eor, ⟨true, false, true⟩ => .eor2k
  | .eor, ⟨true, true, false⟩ => .eorkr | .eor, ⟨true, true, true⟩ => .eor2kr
  | .sft, ⟨false, false, false⟩ => .sft | .sft, ⟨false, false, true⟩ => .sft2
  | .sft, ⟨false, true, false⟩ => .sftr | .sft, ⟨false, true, true⟩ => .sft2r
  | .sft, ⟨true, false, false⟩ => .sftk | .sft, ⟨true, false, true⟩ => .sft2k
  | .sft, ⟨true, true, false⟩ => .sftkr | .sft, ⟨true, true, true⟩ => .sft2kr

/-! ## The decoder -/

/-- The mode bits of an opcode byte (R121, R134). -/
def modeOf (op : Byte) : Mode := ⟨op.getLsbD 7, op.getLsbD 6, op.getLsbD 5⟩

/-- The instruction whose opcode byte is `op` and whose next two bytes in memory are `b1` and `b2`, which only
the LIT forms use (R125 to R127, R134). Every byte is a defined instruction (R131). -/
def decodeOp (op b1 b2 : Byte) : Instr :=
  match Base.ofBits (op.extractLsb' 0 5) with
  | some base => Instr.form base (modeOf op)
  | none =>
    match modeOf op with
    | ⟨false, false, false⟩ => .brk
    | ⟨false, false, true⟩  => .nop20
    | ⟨false, true,  false⟩ => .nop40
    | ⟨false, true,  true⟩  => .nop60
    | ⟨true,  false, false⟩ => .lit b1
    | ⟨true,  false, true⟩  => .lit2 (joinBytes b1 b2)
    | ⟨true,  true,  false⟩ => .litr b1
    | ⟨true,  true,  true⟩  => .lit2r (joinBytes b1 b2)

/-- The number of bytes of an instruction (R128). -/
def Instr.length : Instr → Nat
  | .lit _ | .litr _ => 2
  | .lit2 _ | .lit2r _ => 3
  | _ => 1

/-- Why a list of bytes does not begin with an instruction: it is empty, or it ends within an immediate. No
byte value is itself illegal (R131). -/
inductive DecodeError
  | noByte
  | immediateCutShort
  deriving DecidableEq, Repr

/-- The first instruction of a list of bytes, and the bytes after it (R120, R128). -/
def decode : List Byte → Except DecodeError (Instr × List Byte)
  | [] => .error .noByte
  | op :: rest =>
    if rest.length + 1 < (decodeOp op (rest.getD 0 0) (rest.getD 1 0)).length then .error .immediateCutShort
    else .ok (decodeOp op (rest.getD 0 0) (rest.getD 1 0),
      rest.drop ((decodeOp op (rest.getD 0 0) (rest.getD 1 0)).length - 1))

/-! ## The encoder -/

/-- The opcode byte of an instruction: the opcode map, row by row (R129, spec/opcode_table.json). -/
def Instr.opcode : Instr → Byte
  | .brk => 0x00 | .inc => 0x01 | .pop => 0x02 | .nip => 0x03 | .swp => 0x04 | .rot => 0x05 | .dup => 0x06 | .ovr => 0x07
  | .equ => 0x08 | .neq => 0x09 | .gth => 0x0A | .lth => 0x0B | .jmp => 0x0C | .jcn => 0x0D | .jsr => 0x0E | .sth => 0x0F
  | .ldz => 0x10 | .stz => 0x11 | .ldr => 0x12 | .str => 0x13 | .lda => 0x14 | .sta => 0x15 | .dei => 0x16 | .deo => 0x17
  | .add => 0x18 | .sub => 0x19 | .mul => 0x1A | .div => 0x1B | .and => 0x1C | .ora => 0x1D | .eor => 0x1E | .sft => 0x1F
  | .nop20 => 0x20 | .inc2 => 0x21 | .pop2 => 0x22 | .nip2 => 0x23 | .swp2 => 0x24 | .rot2 => 0x25 | .dup2 => 0x26 | .ovr2 => 0x27
  | .equ2 => 0x28 | .neq2 => 0x29 | .gth2 => 0x2A | .lth2 => 0x2B | .jmp2 => 0x2C | .jcn2 => 0x2D | .jsr2 => 0x2E | .sth2 => 0x2F
  | .ldz2 => 0x30 | .stz2 => 0x31 | .ldr2 => 0x32 | .str2 => 0x33 | .lda2 => 0x34 | .sta2 => 0x35 | .dei2 => 0x36 | .deo2 => 0x37
  | .add2 => 0x38 | .sub2 => 0x39 | .mul2 => 0x3A | .div2 => 0x3B | .and2 => 0x3C | .ora2 => 0x3D | .eor2 => 0x3E | .sft2 => 0x3F
  | .nop40 => 0x40 | .incr => 0x41 | .popr => 0x42 | .nipr => 0x43 | .swpr => 0x44 | .rotr => 0x45 | .dupr => 0x46 | .ovrr => 0x47
  | .equr => 0x48 | .neqr => 0x49 | .gthr => 0x4A | .lthr => 0x4B | .jmpr => 0x4C | .jcnr => 0x4D | .jsrr => 0x4E | .sthr => 0x4F
  | .ldzr => 0x50 | .stzr => 0x51 | .ldrr => 0x52 | .strr => 0x53 | .ldar => 0x54 | .star => 0x55 | .deir => 0x56 | .deor => 0x57
  | .addr => 0x58 | .subr => 0x59 | .mulr => 0x5A | .divr => 0x5B | .andr => 0x5C | .orar => 0x5D | .eorr => 0x5E | .sftr => 0x5F
  | .nop60 => 0x60 | .inc2r => 0x61 | .pop2r => 0x62 | .nip2r => 0x63 | .swp2r => 0x64 | .rot2r => 0x65 | .dup2r => 0x66 | .ovr2r => 0x67
  | .equ2r => 0x68 | .neq2r => 0x69 | .gth2r => 0x6A | .lth2r => 0x6B | .jmp2r => 0x6C | .jcn2r => 0x6D | .jsr2r => 0x6E | .sth2r => 0x6F
  | .ldz2r => 0x70 | .stz2r => 0x71 | .ldr2r => 0x72 | .str2r => 0x73 | .lda2r => 0x74 | .sta2r => 0x75 | .dei2r => 0x76 | .deo2r => 0x77
  | .add2r => 0x78 | .sub2r => 0x79 | .mul2r => 0x7A | .div2r => 0x7B | .and2r => 0x7C | .ora2r => 0x7D | .eor2r => 0x7E | .sft2r => 0x7F
  | .lit _ => 0x80 | .inck => 0x81 | .popk => 0x82 | .nipk => 0x83 | .swpk => 0x84 | .rotk => 0x85 | .dupk => 0x86 | .ovrk => 0x87
  | .equk => 0x88 | .neqk => 0x89 | .gthk => 0x8A | .lthk => 0x8B | .jmpk => 0x8C | .jcnk => 0x8D | .jsrk => 0x8E | .sthk => 0x8F
  | .ldzk => 0x90 | .stzk => 0x91 | .ldrk => 0x92 | .strk => 0x93 | .ldak => 0x94 | .stak => 0x95 | .deik => 0x96 | .deok => 0x97
  | .addk => 0x98 | .subk => 0x99 | .mulk => 0x9A | .divk => 0x9B | .andk => 0x9C | .orak => 0x9D | .eork => 0x9E | .sftk => 0x9F
  | .lit2 _ => 0xA0 | .inc2k => 0xA1 | .pop2k => 0xA2 | .nip2k => 0xA3 | .swp2k => 0xA4 | .rot2k => 0xA5 | .dup2k => 0xA6 | .ovr2k => 0xA7
  | .equ2k => 0xA8 | .neq2k => 0xA9 | .gth2k => 0xAA | .lth2k => 0xAB | .jmp2k => 0xAC | .jcn2k => 0xAD | .jsr2k => 0xAE | .sth2k => 0xAF
  | .ldz2k => 0xB0 | .stz2k => 0xB1 | .ldr2k => 0xB2 | .str2k => 0xB3 | .lda2k => 0xB4 | .sta2k => 0xB5 | .dei2k => 0xB6 | .deo2k => 0xB7
  | .add2k => 0xB8 | .sub2k => 0xB9 | .mul2k => 0xBA | .div2k => 0xBB | .and2k => 0xBC | .ora2k => 0xBD | .eor2k => 0xBE | .sft2k => 0xBF
  | .litr _ => 0xC0 | .inckr => 0xC1 | .popkr => 0xC2 | .nipkr => 0xC3 | .swpkr => 0xC4 | .rotkr => 0xC5 | .dupkr => 0xC6 | .ovrkr => 0xC7
  | .equkr => 0xC8 | .neqkr => 0xC9 | .gthkr => 0xCA | .lthkr => 0xCB | .jmpkr => 0xCC | .jcnkr => 0xCD | .jsrkr => 0xCE | .sthkr => 0xCF
  | .ldzkr => 0xD0 | .stzkr => 0xD1 | .ldrkr => 0xD2 | .strkr => 0xD3 | .ldakr => 0xD4 | .stakr => 0xD5 | .deikr => 0xD6 | .deokr => 0xD7
  | .addkr => 0xD8 | .subkr => 0xD9 | .mulkr => 0xDA | .divkr => 0xDB | .andkr => 0xDC | .orakr => 0xDD | .eorkr => 0xDE | .sftkr => 0xDF
  | .lit2r _ => 0xE0 | .inc2kr => 0xE1 | .pop2kr => 0xE2 | .nip2kr => 0xE3 | .swp2kr => 0xE4 | .rot2kr => 0xE5 | .dup2kr => 0xE6 | .ovr2kr => 0xE7
  | .equ2kr => 0xE8 | .neq2kr => 0xE9 | .gth2kr => 0xEA | .lth2kr => 0xEB | .jmp2kr => 0xEC | .jcn2kr => 0xED | .jsr2kr => 0xEE | .sth2kr => 0xEF
  | .ldz2kr => 0xF0 | .stz2kr => 0xF1 | .ldr2kr => 0xF2 | .str2kr => 0xF3 | .lda2kr => 0xF4 | .sta2kr => 0xF5 | .dei2kr => 0xF6 | .deo2kr => 0xF7
  | .add2kr => 0xF8 | .sub2kr => 0xF9 | .mul2kr => 0xFA | .div2kr => 0xFB | .and2kr => 0xFC | .ora2kr => 0xFD | .eor2kr => 0xFE | .sft2kr => 0xFF

/-- The immediate bytes that follow the opcode byte, high byte first (R126, R128). -/
def Instr.immediate : Instr → List Byte
  | .lit imm | .litr imm => [imm]
  | .lit2 imm | .lit2r imm => [hiByte imm, loByte imm]
  | _ => []

/-- The bytes of an instruction in the order memory holds them (R120, R128). -/
def encode (i : Instr) : List Byte := i.opcode :: i.immediate

/-! ## The opcode table's numbering -/

/-- Byte number `k` of a number whose bit 0 is the least significant bit of the first byte. -/
def byteOf (w k : Nat) : Byte := BitVec.ofNat 8 (w / 256 ^ k)

/-- The three bytes, the longest instruction, that the lowest `nbits` bits of `w` stand for, the bits above
them zero. -/
def tableBytes (nbits w : Nat) : List Byte :=
  [byteOf (w % 2 ^ nbits) 0, byteOf (w % 2 ^ nbits) 1, byteOf (w % 2 ^ nbits) 2]

/-- The instruction the decoder reads from an instruction whose bits are `w`, numbered as
spec/opcode_table.json numbers them. -/
def decodeTableWord (nbits w : Nat) : Option Instr :=
  match decode (tableBytes nbits w) with
  | .ok (i, _) => some i
  | .error _ => none

end Sys2Proof
end

