-- ==== Sys2Proof/Config.lean ====
section
/-!
DEFINITION. What the source leaves to the implementation or to the host (rule R8 of spec/00_scope.md and the
decisions D13 to D33 of spec/92_eei_decisions.md): the types of the open parameters and of the host's answers,
and the free values, each an opaque constant that nothing in Lean can evaluate.
-/

namespace Sys2Proof

/-- A path or any other byte string that crosses the host interface (R450). -/
abbrev Bytes := List Byte

/-! ## The clock -/

/-- The seven days of the week, before `WEEKDAY_MAP` gives each its byte (R393, D17). -/
inductive Weekday
  | monday | tuesday | wednesday | thursday | friday | saturday | sunday
  deriving DecidableEq, Repr, Inhabited

/-- One reading of a clock, every field within the range the table of R393 gives it.
`dayIndex` is the day of the month less one, `ydayIndex` the day of the year counted from 0. -/
structure ClockReading where
  year      : Word
  month     : Fin 12
  dayIndex  : Fin 31
  hour      : Fin 24
  minute    : Fin 60
  second    : Fin 60
  weekday   : Weekday
  ydayIndex : Fin 366
  dst       : Bool
  deriving DecidableEq, Repr, Inhabited

/-- The parameter `TIME_SOURCE`: the variant of the datetime source that the host chooses at construction (R42, D16).
`baseline` is a Unix time in seconds. -/
inductive TimeSourceChoice
  | localTime
  | utc
  | customFromInstant (baseline : Int)
  | staticInstant (instant : ClockReading)
  deriving DecidableEq, Repr, Inhabited

/-- The datetime source of a machine (R42): the chosen variant, a CustomFromInstant source with its `anchor`, the value
of the host's monotonic clock captured at construction. -/
inductive TimeSource
  | localTime
  | utc
  | customFromInstant (baseline : Int) (anchor : Nat)
  | staticInstant (instant : ClockReading)
  deriving DecidableEq, Repr, Inhabited

/-- The source constructed while the host's monotonic clock shows `monotonic`: only a CustomFromInstant source captures
it (R42, R397). -/
def TimeSourceChoice.construct (monotonic : Nat) : TimeSourceChoice → TimeSource
  | .localTime => .localTime
  | .utc => .utc
  | .customFromInstant baseline => .customFromInstant baseline monotonic
  | .staticInstant instant => .staticInstant instant

/-- The host's answer to one clock query (R394, R505): a failure, or the wall-clock reading at that moment
together with the seconds by which its monotonic clock has advanced since the last query. -/
inductive ClockAnswer
  | failure
  | time (reading : ClockReading) (advance : Nat)
  deriving DecidableEq, Repr, Inhabited

/-! ## The file interface -/

/-- `FILE_IFACE`: which implementation of the file interface the host chose (R450, D27). -/
inductive FileIface
  | physical
  | virtual
  deriving DecidableEq, Repr, Inhabited

/-- `FILE_CROSS_TRIGGER`: what a Read trigger does in the Writing state and a Write trigger in a Reading state
(R444, D24). -/
inductive CrossTrigger
  | ignore
  | zeroResult
  | refuse
  deriving DecidableEq, Repr, Inhabited

/-- The host's answer to `read(path)` (R455). -/
inductive ReadAnswer
  | error
  | file (bytes : Bytes)
  | stats (lines : List Bytes)
  deriving DecidableEq, Repr, Inhabited

/-- What a host process leaves when it ends: its exit status and its output (D13). -/
structure HostExit where
  status : Nat
  output : Bytes
  deriving DecidableEq, Repr, Inhabited

/-! ## The parameters fixed for the machine -/

/-- The parameters of R8 that the core's behaviour depends on and that no instruction changes.
`weekdayMap` holds the byte of each weekday, Monday first; `ydayBase` is 0 or 1 (D17). -/
structure Params where
  fileIface    : FileIface
  safety       : Bool
  crossTrigger : CrossTrigger
  weekdayMap   : Vector Byte 7
  ydayBase     : Fin 2
  deriving DecidableEq, Repr, Inhabited

/-- A weekday table used where a drawn one is not injective (log entry 6). -/
def Params.plainWeekdays : Vector Byte 7 := ⟨#[0, 1, 2, 3, 4, 5, 6], rfl⟩

/-- `WEEKDAY_MAP` is injective over the seven days (D17, I7). -/
def Params.weekdaysInjective (p : Params) : Bool := decide p.weekdayMap.toList.Nodup

/-- The parameters with `WEEKDAY_MAP` made injective where it is not; every injective table stays as it is. -/
def Params.lawful (p : Params) : Params :=
  if p.weekdaysInjective then p else { p with weekdayMap := Params.plainWeekdays }

/-! ## Free values

No constant below has a body: nothing can prove what it is. Each answer is a function of the number of answers
the host has given so far, so that no two answers are tied to each other. -/

/-- The parameters of the machine, before `Params.lawful` (D17, D24, D27). -/
opaque Config.params : Params

/-- The datetime source the host chose at construction (R42, D16). -/
opaque Config.timeSource : TimeSourceChoice

/-- The host's monotonic clock at construction, in seconds (R397): the source does not say where it starts. -/
opaque Config.monotonicAtConstruction : Nat

/-- The contents of the virtual file system at construction (R458, D27). -/
opaque Config.virtualFiles : List (Bytes × Bytes)

/-- The calendar fields of a Unix time, for the CustomFromInstant source (R397, D16): the source does not say
in which time zone they are taken. -/
opaque Config.calendar : Int → ClockReading

/-- Whether a path contains a parent-directory component: host-defined (R457, I25). -/
opaque Config.hasParentComponent : Bytes → Bool

/-- `KEY_INPUT`: each draw a byte or, as `none`, the end of input (D14). -/
opaque Config.keyInput : Nat → Option Byte

/-- The answers to `Host.clock()` for the ports 0xC0 to 0xCA (R505, I10). -/
opaque Config.clockAnswer : Nat → ClockAnswer

/-- `DT_UNDEF_VALUE`: a fresh byte for each read of the ports 0xCB to 0xCF (R395, D18, I9). -/
opaque Config.dtUndefValue : Nat → Byte

/-- The answers to `stat(path)` (R451, I19). -/
opaque Config.statAnswer : Nat → Option Bytes

/-- A stat line for a path that exists, where the host has given none (R451, I20). -/
opaque Config.statLine : Nat → Bytes → Bytes

/-- The answers to `read(path)` (R455, I19). -/
opaque Config.readAnswer : Nat → ReadAnswer

/-- The answers to `write(path, bytes)`: a count, or `none` for an error (R454, I19). -/
opaque Config.writeAnswer : Nat → Option Nat

/-- `DEBUG_FORMAT`: the text of the debug view of two stack pages, read as lists of 256 bytes (R385, D33). -/
opaque Config.debugFormat : Bytes → Bytes → Bytes

/-- `EXIT_NO_VECTOR`: the exit status and the output of the host after a Break with no console vector (R173, D13). -/
opaque Config.exitNoVector : HostExit

end Sys2Proof
end

