-- ==== Sys2Proof/Machine/State.lean ====
section
/-!
DEFINITION. The state of the Uxn core as plain data (R30 of spec/10_state.md), the reasons a step stops, and the
reset state (R56, R540).
-/

namespace Sys2Proof.Machine

/-! ## Faults, events and stops -/

/-- The closed set of fault kinds (R490). No instruction raises `unknown` (R493). -/
inductive FaultKind
  | underflow
  | overflow
  | divisionByZero
  | unknown
  deriving DecidableEq, Repr

/-- The event a tick ends a run with (R167). -/
inductive Event
  | brk
  | halt (code : Byte)
  | error (kind : FaultKind)
  deriving DecidableEq, Repr

/-- Why a step has no next state although the machine reports it: the run has ended. Raised only by `runStep`,
never by the meaning of an instruction, which records its event in the state that it leaves. -/
inductive Fault
  /-- The run ended with Halt(code): "The halted state is final: no tick follows" (R503). Raised by `runStep`.
  Safe. -/
  | halted (code : Byte)
  /-- The run ended with Error(kind): "the core takes no further tick after an Error" (R170, R496). Raised by
  `runStep`. Safe. -/
  | errored (kind : FaultKind)
  /-- The run ended with Break and the console vector is 0x0000 (R173, R502, D13). Raised by `resume`. Safe. -/
  | brokeWithoutVector
  /-- The run ended with Break and the host has no more key (R173, R502, D14). Raised by `resume`. Safe. -/
  | keyInputEnded
  deriving DecidableEq, Repr

/-- Why the model gives a step no meaning. -/
inductive Refusal
  /-- An instruction that has no meaning yet. Raised only by an arm of `exec`; no arm raises it now. Safe. -/
  | notModelled (mnemonic : String)
  /-- A file device reads a path with no zero byte up to 0xFFFF: "the model refuses the access" (R86, R435, D28).
  Raised by the file triggers of DEO. Safe. -/
  | unterminatedPath
  /-- A Read trigger in the Writing state or a Write trigger in a Reading state where `FILE_CROSS_TRIGGER` is
  Refuse: "the model has no step" (R444, D24). Raised by the file triggers of DEO. Safe. -/
  | crossTrigger
  /-- A ROM of more than 65,280 bytes: "refused, no run" (R541, D34). Raised by `loadRom`, by no step. Safe. -/
  | romTooLong
  deriving DecidableEq, Repr

/-! ## The components of the state -/

/-- A page of 256 bytes, held as sixteen rows of sixteen: byte `i` is in row `i[7:4]` at place `i[3:0]`.
`Page.get` and `Page.set` are the only readers and writers. -/
abbrev Page := Vector (Vector Byte 16) 16

/-- The page that holds 0x00 everywhere. -/
def Page.zero : Page := Vector.replicate 16 (Vector.replicate 16 0)

/-- One of the two stacks (R34). -/
inductive StackId
  | wst
  | rst
  deriving DecidableEq, Repr

/-- A stack: its page, whose byte 255 is the pointer and byte 254 the error byte (R33), and its keep pointer
(R36). -/
structure Stack where
  page : Page
  keep : Option Byte
  deriving DecidableEq, Repr

/-- Memory: the pairs of an address and its byte, addresses strictly rising, no byte 0x00. An address that is
not listed reads as 0x00, the reset contents (R56, D2). -/
abbrev Memory := List Host.Cell

/-- One of the two file devices: file 0 in slot 0xA, file 1 in slot 0xB (R430). -/
inductive FileId
  | file0
  | file1
  deriving DecidableEq, Repr

/-- The state of a file device (R41, R436). -/
inductive FileState
  | idle
  | readingFile (bytes : Bytes) (cursor : Nat)
  | readingStats (queue : List Bytes)
  | writing (path : Bytes)
  deriving DecidableEq, Repr

/-- A call of the core to the host, with what the core sends (R505). -/
inductive HostCall
  | key
  | stdout (b : Byte)
  | stderr (b : Byte)
  | debugView (wst rst : Page)
  | clock (index : BitVec 4)
  | fileStat (path : Bytes)
  | fileDelete (path : Bytes)
  | fileCreate (path : Bytes)
  | fileWrite (path data : Bytes)
  | fileRead (path : Bytes)
  deriving DecidableEq, Repr

/-- The model's own record of the host (R505). The queues hold answers the host has ready, oldest first; a call
whose queue is empty is answered by the free value of Config at `draws`, the number of answers given so far.
`monotonic` is the host's monotonic clock in seconds, `files` the virtual file system (R458), and `calls` every
call the core has made, oldest first. -/
structure Outside where
  keys      : List (Option Byte)
  clocks    : List ClockAnswer
  dtUndefs  : List Byte
  stats     : List (Option Bytes)
  reads     : List ReadAnswer
  writes    : List (Option Nat)
  draws     : Nat
  monotonic : Nat
  files     : List (Bytes × Bytes)
  calls     : List HostCall
  deriving DecidableEq, Repr

/-- The state of the machine. The fields from `wst` to `timeSource` are the architectural state of R30. `event`
is the event that ended the run, `none` while it goes on (R167); `params` are the open parameters of R8, which no
step changes; `outside` is the host side of the interface. -/
structure State where
  wst        : Stack
  rst        : Stack
  pc         : Word
  mem        : Memory
  port       : Page
  fd0        : FileState
  fd1        : FileState
  timeSource : TimeSource
  event      : Option Event
  params     : Params
  outside    : Outside
  deriving DecidableEq, Repr

/-- What a step, or the meaning of an instruction, answers. -/
abbrev Result := Host.Outcome State Fault Refusal

/-! ## Reset -/

/-- A stack after construction: the page all 0x00, so the pointer 0 and no error, and no keep pointer (R56). -/
def Stack.reset : Stack := { page := Page.zero, keep := none }

/-- A list of files with one entry for each path, the first that names it. -/
def firstOfEachPath : List (Bytes × Bytes) → List (Bytes × Bytes)
  | [] => []
  | f :: rest => f :: (firstOfEachPath rest).filter (fun g => g.1 ≠ f.1)

/-- The host side before the first tick: no answer given, no call made, and the monotonic clock as at construction. -/
def Outside.reset : Outside :=
  { keys := [], clocks := [], dtUndefs := [], stats := [], reads := [], writes := [], draws := 0,
    monotonic := Config.monotonicAtConstruction, files := firstOfEachPath Config.virtualFiles, calls := [] }

/-- The machine right after reset, before a ROM is loaded: the datetime source captures the host's monotonic clock as it
stands at that moment (R56, R540, D2, D3). -/
def State.reset : State :=
  { wst := Stack.reset, rst := Stack.reset, pc := 0x0100, mem := [], port := Page.zero,
    fd0 := .idle, fd1 := .idle, timeSource := Config.timeSource.construct Config.monotonicAtConstruction,
    event := none,
    params := Config.params.lawful, outside := Outside.reset }

end Sys2Proof.Machine
end

