-- ==== Sys2Proof/Machine/Ops.lean ====
section
/-!
DEFINITION. The named operations over the state: the pages, memory (spec/20_memory.md), the stack primitives
(spec/10_state.md), raising a fault (R492 of spec/60_exceptions.md), and the opening and closing of an
instruction's tick (R161, R164, R166, R169 of spec/40_dispatch.md).

A primitive that can fail takes what follows it as its last argument, so that an instruction reads as the
statements of its rule in the order written; where the primitive fails, what follows does not run (R171).
-/

namespace Sys2Proof.Machine

/-! ## Pages -/

theorem byte_row_lt (i : Byte) : i.toNat / 16 < 16 := by
  have := i.isLt
  omega

theorem byte_place_lt (i : Byte) : i.toNat % 16 < 16 := Nat.mod_lt _ (by decide)

/-- Byte `i` of a page. -/
def Page.get (p : Page) (i : Byte) : Byte :=
  (p[i.toNat / 16]'(byte_row_lt i))[i.toNat % 16]'(byte_place_lt i)

/-- The page with byte `i` made `b`. -/
def Page.set (p : Page) (i b : Byte) : Page :=
  Vector.set p (i.toNat / 16)
    (Vector.set (p[i.toNat / 16]'(byte_row_lt i)) (i.toNat % 16) b (byte_place_lt i)) (byte_row_lt i)

/-! ## Memory -/

/-- The canonical form of memory: addresses strictly rising and below 65,536, and no listed byte 0x00. -/
abbrev Memory.wf (m : Memory) : Prop :=
  m.Pairwise (fun c d => c.1 < d.1) ∧ ∀ c ∈ m, c.1 < 65536 ∧ c.2 ≠ 0

/-- The byte listed at a key, 0x00 where none is. -/
def cellAt : Memory → Nat → Byte
  | [], _ => 0
  | c :: rest, key => if key < c.1 then 0 else if key = c.1 then c.2 else cellAt rest key

/-- The list with a byte put at a key, in canonical form: a byte 0x00 removes the entry. -/
def putCell : Memory → Nat → Byte → Memory
  | [], key, b => if b = 0 then [] else [(key, b)]
  | c :: rest, key, b =>
    if key < c.1 then if b = 0 then c :: rest else (key, b) :: c :: rest
    else if key = c.1 then if b = 0 then rest else (key, b) :: rest
    else c :: putCell rest key b

/-- `peek8`, `MemRead(a, 1)` (R81). -/
def Memory.read (m : Memory) (a : Word) : Byte := cellAt m a.toNat

/-- `poke8`, `MemWrite(a, 1, b)` (R82). -/
def Memory.write (m : Memory) (a : Word) (b : Byte) : Memory := putCell m a.toNat b

/-- `peek16`, `MemRead(a, 2)`: the second byte's address wraps (R81). -/
def Memory.read16 (m : Memory) (a : Word) : Word := joinBytes (m.read a) (m.read (a + 1))

/-- `poke16`, `MemWrite(a, 2, v)`: the high byte first (R82). -/
def Memory.write16 (m : Memory) (a v : Word) : Memory :=
  (m.write a (hiByte v)).write (a + 1) (loByte v)

/-- `MemRead(a, W)` at the width of the instruction (R81, R90). -/
def Memory.readW (m : Memory) (a : Word) : (w : Width) → BitVec w.bits
  | .byte => m.read a
  | .short => m.read16 a

/-- `MemWrite(a, W, v)` at the width of the instruction (R82, R90). -/
def Memory.writeW (m : Memory) (a : Word) : (w : Width) → BitVec w.bits → Memory
  | .byte, v => m.write a v
  | .short, v => m.write16 a v

/-- `peek_bytes`, `MemReadBytes(a, len)`, each address wrapping (R84). -/
def Memory.readBytes (m : Memory) : (a : Word) → (len : Nat) → Bytes
  | _, 0 => []
  | a, n + 1 => m.read a :: m.readBytes (a + 1) n

/-- `poke_bytes`, `MemWriteBytes(a, bytes)`, in order, each address wrapping (R85). -/
def Memory.writeBytes : (m : Memory) → (a : Word) → Bytes → Memory
  | m, _, [] => m
  | m, a, b :: rest => (m.write a b).writeBytes (a + 1) rest

/-- The bytes before the first 0x00 among the `fuel` bytes from `a` on, `none` where there is no 0x00. -/
def Memory.stringWithin (m : Memory) : (fuel : Nat) → (a : Word) → Option Bytes
  | 0, _ => none
  | n + 1, a => if m.read a = 0 then some [] else (m.stringWithin n (a + 1)).map (m.read a :: ·)

/-- `get_string`, `MemString(a)`: `none` where no 0x00 occurs from `a` to 0xFFFF, an access the model refuses
(R86, D28). -/
def Memory.string (m : Memory) (a : Word) : Option Bytes := m.stringWithin (65536 - a.toNat) a

/-! ## The stacks -/

/-- `S.ptr`, the real pointer, byte 255 of the page (R33). -/
def Stack.ptr (st : Stack) : Byte := st.page.get 255

/-- `S.err`, the error byte, byte 254 of the page (R33). -/
def Stack.err (st : Stack) : Byte := st.page.get 254

/-- The stack with byte `i` of its page made `b`. -/
def Stack.poke (st : Stack) (i b : Byte) : Stack := { st with page := st.page.set i b }

/-- The active pointer of a pop: the keep pointer where it is set, else the real pointer (R37). -/
def Stack.active (st : Stack) : Byte := st.keep.getD st.ptr

/-- The stack with its active pointer made `p` (R46, R47). -/
def Stack.setActive (st : Stack) (p : Byte) : Stack :=
  match st.keep with
  | some _ => { st with keep := some p }
  | none => st.poke 255 p

/-- The stack after a push of one byte that fits (R44). -/
def Stack.put8 (st : Stack) (b : Byte) : Stack := (st.poke st.ptr b).poke 255 (st.ptr + 1)

/-- The stack after a push of a short that fits, big-endian (R45). -/
def Stack.put16 (st : Stack) (v : Word) : Stack :=
  ((st.poke st.ptr (hiByte v)).poke (st.ptr + 1) (loByte v)).poke 255 (st.ptr + 2)

/-- The stack a name stands for (R34). -/
def State.stack (s : State) : StackId → Stack
  | .wst => s.wst
  | .rst => s.rst

/-- The state with one stack replaced. -/
def State.setStack (s : State) : StackId → Stack → State
  | .wst, st => { s with wst := st }
  | .rst, st => { s with rst := st }

/-- `keep_on(S)` (R49). -/
def keepOn (S : StackId) (s : State) : State :=
  s.setStack S { s.stack S with keep := some (s.stack S).ptr }

/-- `keep_off(S)` (R50). -/
def keepOff (S : StackId) (s : State) : State := s.setStack S { s.stack S with keep := none }

/-! ## Faults -/

/-- The byte that records a fault kind (R490). -/
def FaultKind.code : FaultKind → Byte
  | .underflow => 0x01
  | .overflow => 0x02
  | .divisionByZero => 0x03
  | .unknown => 0xFF

/-- What an error byte means to an observer: `none` where no fault is recorded (R494, D32). -/
def FaultKind.ofErrorByte (b : Byte) : Option FaultKind :=
  if b = 0x00 then none
  else if b = 0x01 then some .underflow
  else if b = 0x02 then some .overflow
  else if b = 0x03 then some .divisionByZero
  else some .unknown

/-- `report_divide_by_zero(S)` (R51). -/
def reportDivideByZero (S : StackId) (s : State) : State :=
  s.setStack S ((s.stack S).poke 254 FaultKind.divisionByZero.code)

/-- The state a fault leaves: the code of its kind in the error byte of the stack, no pointer and no other byte
changed, and the tick ended with Error(kind) (R52, R492). -/
def raiseFault (kind : FaultKind) (S : StackId) (s : State) : State :=
  { s.setStack S ((s.stack S).poke 254 kind.code) with event := some (.error kind) }

/-! ## The stack primitives -/

/-- `push8(S, b)` (R44). -/
def push8 (S : StackId) (b : Byte) (s : State) (next : State → Result) : Result :=
  if (s.stack S).ptr = 254 then .next (raiseFault .overflow S s)
  else next (s.setStack S ((s.stack S).put8 b))

/-- `push16(S, v)`: the bound is computed without wrap (R45). -/
def push16 (S : StackId) (v : Word) (s : State) (next : State → Result) : Result :=
  if (s.stack S).ptr.toNat + 2 > 254 then .next (raiseFault .overflow S s)
  else next (s.setStack S ((s.stack S).put16 v))

/-- `pop8(S)` (R46). -/
def pop8 (S : StackId) (s : State) (next : Byte → State → Result) : Result :=
  if (s.stack S).active = 0 then .next (raiseFault .underflow S s)
  else next ((s.stack S).page.get ((s.stack S).active - 1))
    (s.setStack S ((s.stack S).setActive ((s.stack S).active - 1)))

/-- `pop16(S)` (R47). -/
def pop16 (S : StackId) (s : State) (next : Word → State → Result) : Result :=
  if (s.stack S).active < 2 then .next (raiseFault .underflow S s)
  else next
    (joinBytes ((s.stack S).page.get ((s.stack S).active - 2)) ((s.stack S).page.get ((s.stack S).active - 1)))
    (s.setStack S ((s.stack S).setActive ((s.stack S).active - 2)))

/-- `Push(S, w, v)` (R48). -/
def push (S : StackId) : (w : Width) → BitVec w.bits → State → (State → Result) → Result
  | .byte, v, s, next => push8 S v s next
  | .short, v, s, next => push16 S v s next

/-- `Pop(S, w)` (R48). -/
def pop (S : StackId) : (w : Width) → State → (BitVec w.bits → State → Result) → Result
  | .byte, s, next => pop8 S s next
  | .short, s, next => pop16 S s next

/-! ## The tick around an instruction -/

/-- SRC, the source stack of an instruction (R123, R163). -/
def srcOf (m : Mode) : StackId := if m.ret then .rst else .wst

/-- DST, the destination stack of an instruction (R123, R163). -/
def dstOf (m : Mode) : StackId := if m.ret then .wst else .rst

/-- Keep selection at the start of an instruction, on its source stack only (R122, R164). -/
def selectKeep (m : Mode) (s : State) : State :=
  if m.keep then keepOn (srcOf m) s else keepOff (srcOf m) s

/-- Both keep pointers cleared at the end of an instruction (R161, R166, D3). -/
def closeKeep (s : State) : State := keepOff .rst (keepOff .wst s)

/-- An instruction ends with no event (R161). -/
def finish (s : State) : Result := .next (closeKeep s)

/-- An instruction ends with Halt(c) where a device produced a halt code c (R161, R169). -/
def finishHalt (halt : Option Byte) (s : State) : Result :=
  match halt with
  | none => finish s
  | some c => .next { closeKeep s with event := some (.halt c) }

/-! ## Calls to the host -/

/-- The state with one more call of the core to the host recorded (R505). -/
def State.call (s : State) (c : HostCall) : State :=
  { s with outside := { s.outside with calls := s.outside.calls ++ [c] } }

/-- The answer to a call: the oldest one the host has ready, else a free value. -/
def answer {α : Type} (ready : List α) (free : Nat → α) (draws : Nat) : α := ready.head?.getD (free draws)

end Sys2Proof.Machine
end

