-- ==== Sys2Proof/Machine/Operands.lean ====
section
/-!
DEFINITION. How an operand popped from a stack is read (R132, R133 of spec/30_encoding.md): the three addressing
modes of memory, the jump target, and the shift amounts of SFT's control byte.
-/

namespace Sys2Proof.Machine

/-- `zext_16` of a zero-page address (R92, R133). -/
def zeroPageAddress (a : Byte) : Word := a.setWidth 16

/-- `pc +16 sext_16(d)`, the address of a signed 8-bit delta (R87, R133). -/
def relativeAddress (pc : Word) (d : Byte) : Word := pc + d.signExtend 16

/-- The target of a jump: a signed 8-bit delta from pc in byte mode, an absolute address in short mode
(R132, R245). -/
def jumpTarget (pc : Word) : (w : Width) → BitVec w.bits → Word
  | .byte, d => relativeAddress pc d
  | .short, t => t

/-- `c[3:0]`, the right-shift amount of a control byte (R347). -/
def shiftRightAmount (c : Byte) : Nat := (c.extractLsb' 0 4).toNat

/-- `c[7:4]`, the left-shift amount of a control byte (R347). -/
def shiftLeftAmount (c : Byte) : Nat := (c.extractLsb' 4 4).toNat

/-- Shift right, then left; an amount of the width or more yields 0 (R347). -/
def shiftValue {n : Nat} (v : BitVec n) (c : Byte) : BitVec n :=
  (v >>> shiftRightAmount c) <<< shiftLeftAmount c

end Sys2Proof.Machine
end

