-- ==== Sys2Proof/Machine/ArithLogic.lean ====
section
/-!
DEFINITION. Arithmetic, logic and shift (spec/45_arith_logic.md, R340 to R347). The meaning of a base operation is
given once, for every mode; each instruction of the opcode table has its own definition. `a` is the first value
popped and `b` the second, and every binary operation computes `b op a`, reduced to the width (R13, R348).
-/

namespace Sys2Proof.Machine

/-- Pop a and b, push `b op a`. -/
def binaryOp (op : (n : Nat) → (b a : BitVec n) → BitVec n) (m : Mode) (s : State) : Result :=
  pop (srcOf m) m.width (selectKeep m s) fun a s =>
  pop (srcOf m) m.width s fun b s =>
  push (srcOf m) m.width (op m.width.bits b a) s finish

/-- ADD (R340). -/
def addOp (m : Mode) (s : State) : Result := binaryOp (fun _ b a => b + a) m s

/-- SUB (R341). -/
def subOp (m : Mode) (s : State) : Result := binaryOp (fun _ b a => b - a) m s

/-- MUL: the low half of the product (R342). -/
def mulOp (m : Mode) (s : State) : Result := binaryOp (fun _ b a => b * a) m s

/-- DIV: unsigned and truncating; both operands are popped before the divisor is tested (R343, D7). -/
def divOp (m : Mode) (s : State) : Result :=
  pop (srcOf m) m.width (selectKeep m s) fun a s =>
  pop (srcOf m) m.width s fun b s =>
  if a = 0 then .next (raiseFault .divisionByZero (srcOf m) (reportDivideByZero (srcOf m) s))
  else push (srcOf m) m.width (b / a) s finish

/-- AND (R344). -/
def andOp (m : Mode) (s : State) : Result := binaryOp (fun _ b a => b &&& a) m s

/-- ORA (R345). -/
def oraOp (m : Mode) (s : State) : Result := binaryOp (fun _ b a => b ||| a) m s

/-- EOR (R346). -/
def eorOp (m : Mode) (s : State) : Result := binaryOp (fun _ b a => b ^^^ a) m s

/-- SFT: the control byte is popped first (R347). -/
def sftOp (m : Mode) (s : State) : Result :=
  pop8 (srcOf m) (selectKeep m s) fun c s =>
  pop (srcOf m) m.width s fun v s =>
  push (srcOf m) m.width (shiftValue v c) s finish

/-! ## ADD, base 0x18 (R340) -/

/-- ADD, 0x18: byte mode (R340). -/
def execADD (s : State) : Result := addOp ⟨false, false, false⟩ s

/-- ADD2, 0x38: short mode (R340). -/
def execADD2 (s : State) : Result := addOp ⟨false, false, true⟩ s

/-- ADDr, 0x58: return mode (R340). -/
def execADDr (s : State) : Result := addOp ⟨false, true, false⟩ s

/-- ADD2r, 0x78: short and return mode (R340). -/
def execADD2r (s : State) : Result := addOp ⟨false, true, true⟩ s

/-- ADDk, 0x98: keep mode (R340). -/
def execADDk (s : State) : Result := addOp ⟨true, false, false⟩ s

/-- ADD2k, 0xB8: short and keep mode (R340). -/
def execADD2k (s : State) : Result := addOp ⟨true, false, true⟩ s

/-- ADDkr, 0xD8: keep and return mode (R340). -/
def execADDkr (s : State) : Result := addOp ⟨true, true, false⟩ s

/-- ADD2kr, 0xF8: short and keep and return mode (R340). -/
def execADD2kr (s : State) : Result := addOp ⟨true, true, true⟩ s

/-! ## SUB, base 0x19 (R341) -/

/-- SUB, 0x19: byte mode (R341). -/
def execSUB (s : State) : Result := subOp ⟨false, false, false⟩ s

/-- SUB2, 0x39: short mode (R341). -/
def execSUB2 (s : State) : Result := subOp ⟨false, false, true⟩ s

/-- SUBr, 0x59: return mode (R341). -/
def execSUBr (s : State) : Result := subOp ⟨false, true, false⟩ s

/-- SUB2r, 0x79: short and return mode (R341). -/
def execSUB2r (s : State) : Result := subOp ⟨false, true, true⟩ s

/-- SUBk, 0x99: keep mode (R341). -/
def execSUBk (s : State) : Result := subOp ⟨true, false, false⟩ s

/-- SUB2k, 0xB9: short and keep mode (R341). -/
def execSUB2k (s : State) : Result := subOp ⟨true, false, true⟩ s

/-- SUBkr, 0xD9: keep and return mode (R341). -/
def execSUBkr (s : State) : Result := subOp ⟨true, true, false⟩ s

/-- SUB2kr, 0xF9: short and keep and return mode (R341). -/
def execSUB2kr (s : State) : Result := subOp ⟨true, true, true⟩ s

/-! ## MUL, base 0x1A (R342) -/

/-- MUL, 0x1A: byte mode (R342). -/
def execMUL (s : State) : Result := mulOp ⟨false, false, false⟩ s

/-- MUL2, 0x3A: short mode (R342). -/
def execMUL2 (s : State) : Result := mulOp ⟨false, false, true⟩ s

/-- MULr, 0x5A: return mode (R342). -/
def execMULr (s : State) : Result := mulOp ⟨false, true, false⟩ s

/-- MUL2r, 0x7A: short and return mode (R342). -/
def execMUL2r (s : State) : Result := mulOp ⟨false, true, true⟩ s

/-- MULk, 0x9A: keep mode (R342). -/
def execMULk (s : State) : Result := mulOp ⟨true, false, false⟩ s

/-- MUL2k, 0xBA: short and keep mode (R342). -/
def execMUL2k (s : State) : Result := mulOp ⟨true, false, true⟩ s

/-- MULkr, 0xDA: keep and return mode (R342). -/
def execMULkr (s : State) : Result := mulOp ⟨true, true, false⟩ s

/-- MUL2kr, 0xFA: short and keep and return mode (R342). -/
def execMUL2kr (s : State) : Result := mulOp ⟨true, true, true⟩ s

/-! ## DIV, base 0x1B (R343) -/

/-- DIV, 0x1B: byte mode (R343). -/
def execDIV (s : State) : Result := divOp ⟨false, false, false⟩ s

/-- DIV2, 0x3B: short mode (R343). -/
def execDIV2 (s : State) : Result := divOp ⟨false, false, true⟩ s

/-- DIVr, 0x5B: return mode (R343). -/
def execDIVr (s : State) : Result := divOp ⟨false, true, false⟩ s

/-- DIV2r, 0x7B: short and return mode (R343). -/
def execDIV2r (s : State) : Result := divOp ⟨false, true, true⟩ s

/-- DIVk, 0x9B: keep mode (R343). -/
def execDIVk (s : State) : Result := divOp ⟨true, false, false⟩ s

/-- DIV2k, 0xBB: short and keep mode (R343). -/
def execDIV2k (s : State) : Result := divOp ⟨true, false, true⟩ s

/-- DIVkr, 0xDB: keep and return mode (R343). -/
def execDIVkr (s : State) : Result := divOp ⟨true, true, false⟩ s

/-- DIV2kr, 0xFB: short and keep and return mode (R343). -/
def execDIV2kr (s : State) : Result := divOp ⟨true, true, true⟩ s

/-! ## AND, base 0x1C (R344) -/

/-- AND, 0x1C: byte mode (R344). -/
def execAND (s : State) : Result := andOp ⟨false, false, false⟩ s

/-- AND2, 0x3C: short mode (R344). -/
def execAND2 (s : State) : Result := andOp ⟨false, false, true⟩ s

/-- ANDr, 0x5C: return mode (R344). -/
def execANDr (s : State) : Result := andOp ⟨false, true, false⟩ s

/-- AND2r, 0x7C: short and return mode (R344). -/
def execAND2r (s : State) : Result := andOp ⟨false, true, true⟩ s

/-- ANDk, 0x9C: keep mode (R344). -/
def execANDk (s : State) : Result := andOp ⟨true, false, false⟩ s

/-- AND2k, 0xBC: short and keep mode (R344). -/
def execAND2k (s : State) : Result := andOp ⟨true, false, true⟩ s

/-- ANDkr, 0xDC: keep and return mode (R344). -/
def execANDkr (s : State) : Result := andOp ⟨true, true, false⟩ s

/-- AND2kr, 0xFC: short and keep and return mode (R344). -/
def execAND2kr (s : State) : Result := andOp ⟨true, true, true⟩ s

/-! ## ORA, base 0x1D (R345) -/

/-- ORA, 0x1D: byte mode (R345). -/
def execORA (s : State) : Result := oraOp ⟨false, false, false⟩ s

/-- ORA2, 0x3D: short mode (R345). -/
def execORA2 (s : State) : Result := oraOp ⟨false, false, true⟩ s

/-- ORAr, 0x5D: return mode (R345). -/
def execORAr (s : State) : Result := oraOp ⟨false, true, false⟩ s

/-- ORA2r, 0x7D: short and return mode (R345). -/
def execORA2r (s : State) : Result := oraOp ⟨false, true, true⟩ s

/-- ORAk, 0x9D: keep mode (R345). -/
def execORAk (s : State) : Result := oraOp ⟨true, false, false⟩ s

/-- ORA2k, 0xBD: short and keep mode (R345). -/
def execORA2k (s : State) : Result := oraOp ⟨true, false, true⟩ s

/-- ORAkr, 0xDD: keep and return mode (R345). -/
def execORAkr (s : State) : Result := oraOp ⟨true, true, false⟩ s

/-- ORA2kr, 0xFD: short and keep and return mode (R345). -/
def execORA2kr (s : State) : Result := oraOp ⟨true, true, true⟩ s

/-! ## EOR, base 0x1E (R346) -/

/-- EOR, 0x1E: byte mode (R346). -/
def execEOR (s : State) : Result := eorOp ⟨false, false, false⟩ s

/-- EOR2, 0x3E: short mode (R346). -/
def execEOR2 (s : State) : Result := eorOp ⟨false, false, true⟩ s

/-- EORr, 0x5E: return mode (R346). -/
def execEORr (s : State) : Result := eorOp ⟨false, true, false⟩ s

/-- EOR2r, 0x7E: short and return mode (R346). -/
def execEOR2r (s : State) : Result := eorOp ⟨false, true, true⟩ s

/-- EORk, 0x9E: keep mode (R346). -/
def execEORk (s : State) : Result := eorOp ⟨true, false, false⟩ s

/-- EOR2k, 0xBE: short and keep mode (R346). -/
def execEOR2k (s : State) : Result := eorOp ⟨true, false, true⟩ s

/-- EORkr, 0xDE: keep and return mode (R346). -/
def execEORkr (s : State) : Result := eorOp ⟨true, true, false⟩ s

/-- EOR2kr, 0xFE: short and keep and return mode (R346). -/
def execEOR2kr (s : State) : Result := eorOp ⟨true, true, true⟩ s

/-! ## SFT, base 0x1F (R347) -/

/-- SFT, 0x1F: byte mode (R347). -/
def execSFT (s : State) : Result := sftOp ⟨false, false, false⟩ s

/-- SFT2, 0x3F: short mode (R347). -/
def execSFT2 (s : State) : Result := sftOp ⟨false, false, true⟩ s

/-- SFTr, 0x5F: return mode (R347). -/
def execSFTr (s : State) : Result := sftOp ⟨false, true, false⟩ s

/-- SFT2r, 0x7F: short and return mode (R347). -/
def execSFT2r (s : State) : Result := sftOp ⟨false, true, true⟩ s

/-- SFTk, 0x9F: keep mode (R347). -/
def execSFTk (s : State) : Result := sftOp ⟨true, false, false⟩ s

/-- SFT2k, 0xBF: short and keep mode (R347). -/
def execSFT2k (s : State) : Result := sftOp ⟨true, false, true⟩ s

/-- SFTkr, 0xDF: keep and return mode (R347). -/
def execSFTkr (s : State) : Result := sftOp ⟨true, true, false⟩ s

/-- SFT2kr, 0xFF: short and keep and return mode (R347). -/
def execSFT2kr (s : State) : Result := sftOp ⟨true, true, true⟩ s

end Sys2Proof.Machine
end

