-- ==== Sys2Proof/Machine/Flags.lean ====
section
/-!
DEFINITION. The core has no status flags and no condition codes (R32 of spec/10_state.md): what another machine
would put in a flag, a comparison pushes as a boolean byte (R240) and JCN tests as a popped byte (R246).
-/

namespace Sys2Proof.Machine

/-- The boolean byte of a comparison: 0x01 where it holds, 0x00 where it does not (R240). -/
def boolByte (holds : Bool) : Byte := if holds then 0x01 else 0x00

/-- A condition byte takes the jump when it is not 0x00 (R246). -/
def conditionHolds (c : Byte) : Bool := c ≠ 0

end Sys2Proof.Machine
end

