-- ==== Sys2Proof/Machine/CompareJump.lean ====
section
/-!
DEFINITION. Comparisons, jumps and stash (spec/42_compare_jump.md, R240 to R248). The meaning of a base operation is
given once, for every mode; each instruction of the opcode table has its own definition.
-/

namespace Sys2Proof.Machine

/-- The common rule of the comparisons: pop a and b, push one byte that says whether `b op a` holds (R240). -/
def compareOp (holds : (n : Nat) → (b a : BitVec n) → Bool) (m : Mode) (s : State) : Result :=
  pop (srcOf m) m.width (selectKeep m s) fun a s =>
  pop (srcOf m) m.width s fun b s =>
  push (srcOf m) .byte (boolByte (holds m.width.bits b a)) s finish

/-- EQU: b == a (R241). -/
def equOp (m : Mode) (s : State) : Result := compareOp (fun _ b a => b == a) m s

/-- NEQ: b != a (R242). -/
def neqOp (m : Mode) (s : State) : Result := compareOp (fun _ b a => b != a) m s

/-- GTH: b > a, unsigned (R243). -/
def gthOp (m : Mode) (s : State) : Result := compareOp (fun _ b a => a.ult b) m s

/-- LTH: b < a, unsigned (R244). -/
def lthOp (m : Mode) (s : State) : Result := compareOp (fun _ b a => b.ult a) m s

/-- JMP (R245). -/
def jmpOp (m : Mode) (s : State) : Result :=
  pop (srcOf m) m.width (selectKeep m s) fun t s =>
  finish { s with pc := jumpTarget s.pc m.width t }

/-- JCN: the condition is popped first, and the target whether or not the jump is taken (R246, D5). -/
def jcnOp (m : Mode) (s : State) : Result :=
  pop8 (srcOf m) (selectKeep m s) fun c s =>
  pop (srcOf m) m.width s fun t s =>
  finish { s with pc := if conditionHolds c then jumpTarget s.pc m.width t else s.pc }

/-- JSR: the return address is pushed onto DST before the target is popped from SRC (R247, D6). -/
def jsrOp (m : Mode) (s : State) : Result :=
  push16 (dstOf m) s.pc (selectKeep m s) fun s =>
  pop (srcOf m) m.width s fun t s =>
  finish { s with pc := jumpTarget s.pc m.width t }

/-- STH: popped from SRC, pushed onto DST (R248). -/
def sthOp (m : Mode) (s : State) : Result :=
  pop (srcOf m) m.width (selectKeep m s) fun a s =>
  push (dstOf m) m.width a s finish

/-! ## EQU, base 0x08 (R241) -/

/-- EQU, 0x08: byte mode (R241). -/
def execEQU (s : State) : Result := equOp ⟨false, false, false⟩ s

/-- EQU2, 0x28: short mode (R241). -/
def execEQU2 (s : State) : Result := equOp ⟨false, false, true⟩ s

/-- EQUr, 0x48: return mode (R241). -/
def execEQUr (s : State) : Result := equOp ⟨false, true, false⟩ s

/-- EQU2r, 0x68: short and return mode (R241). -/
def execEQU2r (s : State) : Result := equOp ⟨false, true, true⟩ s

/-- EQUk, 0x88: keep mode (R241). -/
def execEQUk (s : State) : Result := equOp ⟨true, false, false⟩ s

/-- EQU2k, 0xA8: short and keep mode (R241). -/
def execEQU2k (s : State) : Result := equOp ⟨true, false, true⟩ s

/-- EQUkr, 0xC8: keep and return mode (R241). -/
def execEQUkr (s : State) : Result := equOp ⟨true, true, false⟩ s

/-- EQU2kr, 0xE8: short and keep and return mode (R241). -/
def execEQU2kr (s : State) : Result := equOp ⟨true, true, true⟩ s

/-! ## NEQ, base 0x09 (R242) -/

/-- NEQ, 0x09: byte mode (R242). -/
def execNEQ (s : State) : Result := neqOp ⟨false, false, false⟩ s

/-- NEQ2, 0x29: short mode (R242). -/
def execNEQ2 (s : State) : Result := neqOp ⟨false, false, true⟩ s

/-- NEQr, 0x49: return mode (R242). -/
def execNEQr (s : State) : Result := neqOp ⟨false, true, false⟩ s

/-- NEQ2r, 0x69: short and return mode (R242). -/
def execNEQ2r (s : State) : Result := neqOp ⟨false, true, true⟩ s

/-- NEQk, 0x89: keep mode (R242). -/
def execNEQk (s : State) : Result := neqOp ⟨true, false, false⟩ s

/-- NEQ2k, 0xA9: short and keep mode (R242). -/
def execNEQ2k (s : State) : Result := neqOp ⟨true, false, true⟩ s

/-- NEQkr, 0xC9: keep and return mode (R242). -/
def execNEQkr (s : State) : Result := neqOp ⟨true, true, false⟩ s

/-- NEQ2kr, 0xE9: short and keep and return mode (R242). -/
def execNEQ2kr (s : State) : Result := neqOp ⟨true, true, true⟩ s

/-! ## GTH, base 0x0A (R243) -/

/-- GTH, 0x0A: byte mode (R243). -/
def execGTH (s : State) : Result := gthOp ⟨false, false, false⟩ s

/-- GTH2, 0x2A: short mode (R243). -/
def execGTH2 (s : State) : Result := gthOp ⟨false, false, true⟩ s

/-- GTHr, 0x4A: return mode (R243). -/
def execGTHr (s : State) : Result := gthOp ⟨false, true, false⟩ s

/-- GTH2r, 0x6A: short and return mode (R243). -/
def execGTH2r (s : State) : Result := gthOp ⟨false, true, true⟩ s

/-- GTHk, 0x8A: keep mode (R243). -/
def execGTHk (s : State) : Result := gthOp ⟨true, false, false⟩ s

/-- GTH2k, 0xAA: short and keep mode (R243). -/
def execGTH2k (s : State) : Result := gthOp ⟨true, false, true⟩ s

/-- GTHkr, 0xCA: keep and return mode (R243). -/
def execGTHkr (s : State) : Result := gthOp ⟨true, true, false⟩ s

/-- GTH2kr, 0xEA: short and keep and return mode (R243). -/
def execGTH2kr (s : State) : Result := gthOp ⟨true, true, true⟩ s

/-! ## LTH, base 0x0B (R244) -/

/-- LTH, 0x0B: byte mode (R244). -/
def execLTH (s : State) : Result := lthOp ⟨false, false, false⟩ s

/-- LTH2, 0x2B: short mode (R244). -/
def execLTH2 (s : State) : Result := lthOp ⟨false, false, true⟩ s

/-- LTHr, 0x4B: return mode (R244). -/
def execLTHr (s : State) : Result := lthOp ⟨false, true, false⟩ s

/-- LTH2r, 0x6B: short and return mode (R244). -/
def execLTH2r (s : State) : Result := lthOp ⟨false, true, true⟩ s

/-- LTHk, 0x8B: keep mode (R244). -/
def execLTHk (s : State) : Result := lthOp ⟨true, false, false⟩ s

/-- LTH2k, 0xAB: short and keep mode (R244). -/
def execLTH2k (s : State) : Result := lthOp ⟨true, false, true⟩ s

/-- LTHkr, 0xCB: keep and return mode (R244). -/
def execLTHkr (s : State) : Result := lthOp ⟨true, true, false⟩ s

/-- LTH2kr, 0xEB: short and keep and return mode (R244). -/
def execLTH2kr (s : State) : Result := lthOp ⟨true, true, true⟩ s

/-! ## JMP, base 0x0C (R245) -/

/-- JMP, 0x0C: byte mode (R245). -/
def execJMP (s : State) : Result := jmpOp ⟨false, false, false⟩ s

/-- JMP2, 0x2C: short mode (R245). -/
def execJMP2 (s : State) : Result := jmpOp ⟨false, false, true⟩ s

/-- JMPr, 0x4C: return mode (R245). -/
def execJMPr (s : State) : Result := jmpOp ⟨false, true, false⟩ s

/-- JMP2r, 0x6C: short and return mode (R245). -/
def execJMP2r (s : State) : Result := jmpOp ⟨false, true, true⟩ s

/-- JMPk, 0x8C: keep mode (R245). -/
def execJMPk (s : State) : Result := jmpOp ⟨true, false, false⟩ s

/-- JMP2k, 0xAC: short and keep mode (R245). -/
def execJMP2k (s : State) : Result := jmpOp ⟨true, false, true⟩ s

/-- JMPkr, 0xCC: keep and return mode (R245). -/
def execJMPkr (s : State) : Result := jmpOp ⟨true, true, false⟩ s

/-- JMP2kr, 0xEC: short and keep and return mode (R245). -/
def execJMP2kr (s : State) : Result := jmpOp ⟨true, true, true⟩ s

/-! ## JCN, base 0x0D (R246) -/

/-- JCN, 0x0D: byte mode (R246). -/
def execJCN (s : State) : Result := jcnOp ⟨false, false, false⟩ s

/-- JCN2, 0x2D: short mode (R246). -/
def execJCN2 (s : State) : Result := jcnOp ⟨false, false, true⟩ s

/-- JCNr, 0x4D: return mode (R246). -/
def execJCNr (s : State) : Result := jcnOp ⟨false, true, false⟩ s

/-- JCN2r, 0x6D: short and return mode (R246). -/
def execJCN2r (s : State) : Result := jcnOp ⟨false, true, true⟩ s

/-- JCNk, 0x8D: keep mode (R246). -/
def execJCNk (s : State) : Result := jcnOp ⟨true, false, false⟩ s

/-- JCN2k, 0xAD: short and keep mode (R246). -/
def execJCN2k (s : State) : Result := jcnOp ⟨true, false, true⟩ s

/-- JCNkr, 0xCD: keep and return mode (R246). -/
def execJCNkr (s : State) : Result := jcnOp ⟨true, true, false⟩ s

/-- JCN2kr, 0xED: short and keep and return mode (R246). -/
def execJCN2kr (s : State) : Result := jcnOp ⟨true, true, true⟩ s

/-! ## JSR, base 0x0E (R247) -/

/-- JSR, 0x0E: byte mode (R247). -/
def execJSR (s : State) : Result := jsrOp ⟨false, false, false⟩ s

/-- JSR2, 0x2E: short mode (R247). -/
def execJSR2 (s : State) : Result := jsrOp ⟨false, false, true⟩ s

/-- JSRr, 0x4E: return mode (R247). -/
def execJSRr (s : State) : Result := jsrOp ⟨false, true, false⟩ s

/-- JSR2r, 0x6E: short and return mode (R247). -/
def execJSR2r (s : State) : Result := jsrOp ⟨false, true, true⟩ s

/-- JSRk, 0x8E: keep mode (R247). -/
def execJSRk (s : State) : Result := jsrOp ⟨true, false, false⟩ s

/-- JSR2k, 0xAE: short and keep mode (R247). -/
def execJSR2k (s : State) : Result := jsrOp ⟨true, false, true⟩ s

/-- JSRkr, 0xCE: keep and return mode (R247). -/
def execJSRkr (s : State) : Result := jsrOp ⟨true, true, false⟩ s

/-- JSR2kr, 0xEE: short and keep and return mode (R247). -/
def execJSR2kr (s : State) : Result := jsrOp ⟨true, true, true⟩ s

/-! ## STH, base 0x0F (R248) -/

/-- STH, 0x0F: byte mode (R248). -/
def execSTH (s : State) : Result := sthOp ⟨false, false, false⟩ s

/-- STH2, 0x2F: short mode (R248). -/
def execSTH2 (s : State) : Result := sthOp ⟨false, false, true⟩ s

/-- STHr, 0x4F: return mode (R248). -/
def execSTHr (s : State) : Result := sthOp ⟨false, true, false⟩ s

/-- STH2r, 0x6F: short and return mode (R248). -/
def execSTH2r (s : State) : Result := sthOp ⟨false, true, true⟩ s

/-- STHk, 0x8F: keep mode (R248). -/
def execSTHk (s : State) : Result := sthOp ⟨true, false, false⟩ s

/-- STH2k, 0xAF: short and keep mode (R248). -/
def execSTH2k (s : State) : Result := sthOp ⟨true, false, true⟩ s

/-- STHkr, 0xCF: keep and return mode (R248). -/
def execSTHkr (s : State) : Result := sthOp ⟨true, true, false⟩ s

/-- STH2kr, 0xEF: short and keep and return mode (R248). -/
def execSTH2kr (s : State) : Result := sthOp ⟨true, true, true⟩ s

end Sys2Proof.Machine
end

