-- ==== Sys2Proof/Machine/Clock.lean ====
section
/-!
DEFINITION. The datetime device, slot 0xC of the port page (R393 to R397 of spec/46_device_bus.md): each DEI of one
of its ports is one query of the time source.
-/

namespace Sys2Proof.Machine

/-- The place of a weekday in the `WEEKDAY_MAP` table. -/
def weekdayIndex : Weekday → Fin 7
  | .monday => 0 | .tuesday => 1 | .wednesday => 2 | .thursday => 3
  | .friday => 4 | .saturday => 5 | .sunday => 6

/-- The Unix epoch, 1970-01-01 00:00:00 UTC, a Thursday: what a failed clock query reads as (R394, GK3). -/
def epochReading : ClockReading :=
  { year := 1970, month := 0, dayIndex := 0, hour := 0, minute := 0, second := 0,
    weekday := .thursday, ydayIndex := 0, dst := false }

/-- The seconds by which an answer advances the host's monotonic clock: none where the query failed. -/
def clockAdvance : ClockAnswer → Nat
  | .failure => 0
  | .time _ advance => advance

/-- The host's next answer to a clock query, and the state after it. The monotonic clock advances with it. -/
def takeClock (s : State) : ClockAnswer × State :=
  let a := answer s.outside.clocks Config.clockAnswer s.outside.draws
  (a, { s with outside :=
        { s.outside with
          clocks := s.outside.clocks.tail
          draws := s.outside.draws + 1
          monotonic := s.outside.monotonic + clockAdvance a } })

/-- The reading of a source from the host's answer and the value of the monotonic clock (R394, R397). A failed
query reads as the epoch; a static source is read without the host's clock and so never fails (DESIGN CHOICE, log
entry 20). Port 0xCA is 1 only for local time (R393), and R397 says of Local and Utc alone which they are: that a
static instant and the calendar of a custom source may count as local time, with the DST state their reading holds, is
the model's choice (DESIGN CHOICE, log entry 42). -/
def readingOf (source : TimeSource) (a : ClockAnswer) (monotonic : Nat) : ClockReading :=
  match source, a with
  | .staticInstant instant, _ => instant
  | _, .failure => epochReading
  | .localTime, .time r _ => r
  | .utc, .time r _ => { r with dst := false }
  | .customFromInstant baseline anchor, .time _ _ =>
    Config.calendar (baseline + ((monotonic : Int) - anchor))

/-- The byte of a reading at the local index of its port, 0x0 to 0xA (R393). -/
def clockField (p : Params) (r : ClockReading) (index : BitVec 4) : Byte :=
  match index.toNat with
  | 0x0 => hiByte r.year
  | 0x1 => loByte r.year
  | 0x2 => BitVec.ofNat 8 r.month.val
  | 0x3 => BitVec.ofNat 8 (r.dayIndex.val + 1)
  | 0x4 => BitVec.ofNat 8 r.hour.val
  | 0x5 => BitVec.ofNat 8 r.minute.val
  | 0x6 => BitVec.ofNat 8 r.second.val
  | 0x7 => p.weekdayMap[(weekdayIndex r.weekday).val]
  | 0x8 => hiByte (BitVec.ofNat 16 (r.ydayIndex.val + p.ydayBase.val))
  | 0x9 => loByte (BitVec.ofNat 16 (r.ydayIndex.val + p.ydayBase.val))
  | _ => if r.dst then 1 else 0

/-- `DT_UNDEF_VALUE`: the host's next byte for a port of the slot that the source does not describe (R395). -/
def takeUndefined (s : State) : Byte × State :=
  (answer s.outside.dtUndefs Config.dtUndefValue s.outside.draws,
    { s with outside :=
      { s.outside with dtUndefs := s.outside.dtUndefs.tail, draws := s.outside.draws + 1 } })

/-- `Host.clock()` for one local index of the slot, `Datetime(i)` of R381 (R393 to R397, R505). -/
def hostClock (index : BitVec 4) (s : State) : Byte × State :=
  let called := s.call (.clock index)
  if index.toNat ≤ 0xA then
    let (a, t) := takeClock called
    (clockField t.params (readingOf t.timeSource a t.outside.monotonic) index, t)
  else takeUndefined called

end Sys2Proof.Machine
end

