-- ==== Sys2Proof/Machine/FileDevice.lean ====
section
/-!
DEFINITION. The file devices (spec/47_file_device.md): the fields of a file slot, the host file interface the
devices call (R450 to R458), and the actions of the five trigger ports (R437 to R447).
-/

namespace Sys2Proof.Machine

/-! ## The slot -/

/-- `B`, the first port of a file slot (R430). -/
def FileId.base : FileId → Byte
  | .file0 => 0xA0
  | .file1 => 0xB0

/-- `FD[i]` (R41). -/
def State.fd (s : State) : FileId → FileState
  | .file0 => s.fd0
  | .file1 => s.fd1

/-- The state with `FD[i]` replaced. -/
def State.setFd (s : State) : FileId → FileState → State
  | .file0, f => { s with fd0 := f }
  | .file1, f => { s with fd1 := f }

/-- `F16(B, o)`, a 16-bit field of the slot, big-endian (R430, R431). -/
def field16 (i : FileId) (offset : Byte) (s : State) : Word :=
  joinBytes (s.port.get (i.base + offset)) (s.port.get (i.base + offset + 1))

/-- `PathPtr(B)` (R431). -/
def filePathPtr (i : FileId) (s : State) : Word := field16 i 0x08 s

/-- `Length(B)` (R431). -/
def fileLength (i : FileId) (s : State) : Nat := (field16 i 0x0A s).toNat

/-- `Target(B)` (R431). -/
def fileTarget (i : FileId) (s : State) : Word := field16 i 0x0C s

/-- `Source(B)` (R431, C4). -/
def fileSource (i : FileId) (s : State) : Word := field16 i 0x0E s

/-- `Append(B) ≠ 0x00`: the write appends (R431, D25). -/
def fileAppends (i : FileId) (s : State) : Bool := s.port.get (i.base + 0x07) ≠ 0

/-- `Path(B)`, `none` where memory holds no terminated string there (R431, R435). -/
def filePath (i : FileId) (s : State) : Option Bytes := s.mem.string (filePathPtr i s)

/-- `SetResult(B, n)` for n < 2^16: a direct write into the slot (R434). -/
def setResult (i : FileId) (n : Nat) (s : State) : State :=
  { s with
    port := (s.port.set (i.base + 0x02) (hiByte (BitVec.ofNat 16 n))).set (i.base + 0x03)
              (loByte (BitVec.ofNat 16 n)) }

/-! ## The host file interface -/

/-- The path "./", which the virtual implementation treats as a directory over all its keys (R455). -/
def currentDirectory : Bytes := [0x2E, 0x2F]

/-- The contents of a path of the virtual file system, `none` where it has no such key (R458). -/
def contentsOf : List (Bytes × Bytes) → Bytes → Option Bytes
  | [], _ => none
  | f :: rest, path => if f.1 = path then some f.2 else contentsOf rest path

/-- The virtual file system with the contents of a path replaced, the path added where it is absent (R458). -/
def putFile : List (Bytes × Bytes) → Bytes → Bytes → List (Bytes × Bytes)
  | [], path, data => [(path, data)]
  | f :: rest, path, data => if f.1 = path then (path, data) :: rest else f :: putFile rest path data

/-- The virtual file system without a path (R452, R458). -/
def removeFile (files : List (Bytes × Bytes)) (path : Bytes) : List (Bytes × Bytes) :=
  files.filter (fun f => f.1 ≠ path)

/-- The state with the virtual file system replaced. -/
def State.setFiles (s : State) (files : List (Bytes × Bytes)) : State :=
  { s with outside := { s.outside with files := files } }

/-- The physical implementation rejects a path: its safety flag is on and the path contains a parent-directory
component (R457). -/
def rejectsPath (p : Params) (path : Bytes) : Bool := p.safety && Config.hasParentComponent path

/-- The host's next answer to `stat`, and the state after it. -/
def takeStat (s : State) : Option Bytes × State :=
  (answer s.outside.stats Config.statAnswer s.outside.draws,
    { s with outside := { s.outside with stats := s.outside.stats.tail, draws := s.outside.draws + 1 } })

/-- The host's next answer to `read`, and the state after it. -/
def takeRead (s : State) : ReadAnswer × State :=
  (answer s.outside.reads Config.readAnswer s.outside.draws,
    { s with outside := { s.outside with reads := s.outside.reads.tail, draws := s.outside.draws + 1 } })

/-- The host's next answer to `write`, and the state after it. -/
def takeWrite (s : State) : Option Nat × State :=
  (answer s.outside.writes Config.writeAnswer s.outside.draws,
    { s with outside := { s.outside with writes := s.outside.writes.tail, draws := s.outside.draws + 1 } })

/-- One stat line for each key of a virtual directory listing: the line the host gave, a free line where it
gave none (R455, R458). -/
def listingLines (draws : Nat) : List (Bytes × Bytes) → List Bytes → List Bytes
  | [], _ => []
  | f :: rest, given => given.head?.getD (Config.statLine draws f.1) :: listingLines draws rest given.tail

/-- What `stat(path)` answers under the laws of the file interface, from the host's own answer (R451, R457,
R458, D27). -/
def lawfulStat (s : State) (path : Bytes) (given : Option Bytes) : Option Bytes :=
  match s.params.fileIface with
  | .physical => if rejectsPath s.params path then none else given
  | .virtual =>
    if path = currentDirectory then given
    else match contentsOf s.outside.files path with
      | none => none
      | some _ => some (given.getD (Config.statLine s.outside.draws path))

/-- `Host.file.stat(path)` (R451, R505). -/
def hostStat (path : Bytes) (s : State) : Option Bytes × State :=
  let (given, t) := takeStat (s.call (.fileStat path))
  (lawfulStat t path given, t)

/-- `Host.file.delete(path)`, best effort and without an answer (R452, R457, R505). -/
def hostDelete (path : Bytes) (s : State) : State :=
  match s.params.fileIface with
  | .physical => s.call (.fileDelete path)
  | .virtual => (s.call (.fileDelete path)).setFiles (removeFile s.outside.files path)

/-- `Host.file.create(path)`: create or truncate, without an answer (R453, R457, R505). -/
def hostCreate (path : Bytes) (s : State) : State :=
  match s.params.fileIface with
  | .physical => s.call (.fileCreate path)
  | .virtual => (s.call (.fileCreate path)).setFiles (putFile s.outside.files path [])

/-- What `write(path, data)` answers under the laws of the file interface: a count of at most the data's length,
an error where the path is rejected or, in the virtual file system, absent (R454, R456, R457, D27). -/
def lawfulWrite (s : State) (path data : Bytes) (given : Option Nat) : Option Nat :=
  match s.params.fileIface with
  | .physical => if rejectsPath s.params path then none else given.map (min · data.length)
  | .virtual =>
    match contentsOf s.outside.files path with
    | none => none
    | some _ => given.map (min · data.length)

/-- The virtual file system after a write to a path: `count` bytes are appended to its contents (R454). That they are
the first bytes of the data, and that a write the host answers with an error (`none`) leaves the contents as they were,
are the model's choices (DEDUCED and DESIGN CHOICE, log entry 11). -/
def appendToFile (files : List (Bytes × Bytes)) (path data : Bytes) (count : Option Nat) :
    List (Bytes × Bytes) :=
  match count, contentsOf files path with
  | some n, some old => putFile files path (old ++ data.take n)
  | _, _ => files

/-- `Host.file.write(path, data)` (R454, R505). -/
def hostWrite (path data : Bytes) (s : State) : Option Nat × State :=
  let (given, t) := takeWrite (s.call (.fileWrite path data))
  let count := lawfulWrite t path data given
  match t.params.fileIface with
  | .physical => (count, t)
  | .virtual => (count, t.setFiles (appendToFile t.outside.files path data count))

/-- What `read(path)` answers under the laws of the file interface (R455, R457, R458, D27). -/
def lawfulRead (s : State) (path : Bytes) (given : ReadAnswer) : ReadAnswer :=
  match s.params.fileIface with
  | .physical => if rejectsPath s.params path then .error else given
  | .virtual =>
    if path = currentDirectory then
      match given with
      | .stats lines => .stats (listingLines s.outside.draws s.outside.files lines)
      | _ => .stats (listingLines s.outside.draws s.outside.files [])
    else match contentsOf s.outside.files path with
      | none => .error
      | some bytes => .file bytes

/-- `Host.file.read(path)` (R455, R505). -/
def hostRead (path : Bytes) (s : State) : ReadAnswer × State :=
  let (given, t) := takeRead (s.call (.fileRead path))
  (lawfulRead t path given, t)

/-! ## The triggers -/

/-- The state with bytes copied into memory from the target address on (R437, R442, R443). -/
def copyToTarget (i : FileId) (bytes : Bytes) (s : State) : State :=
  { s with mem := s.mem.writeBytes (fileTarget i s) bytes }

/-- Stat, local 0x04, once the path is known (R437). -/
def statPath (i : FileId) (path : Bytes) (s : State) : State :=
  match hostStat path s with
  | (some line, t) =>
    if line.length ≤ fileLength i t then setResult i line.length (copyToTarget i line t) else setResult i 0 t
  | (none, t) => setResult i 0 t

/-- Change-Name, local 0x08 (R439). -/
def changeName (i : FileId) (s : State) : State := s.setFd i .idle

/-- A trigger in the other direction's state (R444, D24). -/
def crossTrigger (i : FileId) (s : State) : Except Refusal State :=
  match s.params.crossTrigger with
  | .ignore => .ok s
  | .zeroResult => .ok (setResult i 0 s)
  | .refuse => .error .crossTrigger

/-- The next chunk of a file buffer (R442). -/
def fileChunk (length : Nat) (bytes : Bytes) (cursor : Nat) : Bytes := (bytes.drop cursor).take length

/-- Read in the ReadingFile state (R442). -/
def readFileChunk (i : FileId) (bytes : Bytes) (cursor : Nat) (s : State) : State :=
  setResult i (fileChunk (fileLength i s) bytes cursor).length
    ((copyToTarget i (fileChunk (fileLength i s) bytes cursor) s).setFd i
      (.readingFile bytes (cursor + (fileChunk (fileLength i s) bytes cursor).length)))

/-- The whole entries of a queue that fit in a budget, and the queue that is left: it stops before the first
entry that does not fit (R443). -/
def takeEntries : (budget : Nat) → List Bytes → Bytes × List Bytes
  | _, [] => ([], [])
  | budget, e :: rest =>
    if e.length ≤ budget then
      (e ++ (takeEntries (budget - e.length) rest).1, (takeEntries (budget - e.length) rest).2)
    else ([], e :: rest)

/-- Read in the ReadingStats state (R443). -/
def readStatsChunk (i : FileId) (queue : List Bytes) (s : State) : State :=
  setResult i (takeEntries (fileLength i s) queue).1.length
    ((copyToTarget i (takeEntries (fileLength i s) queue).1 s).setFd i
      (.readingStats (takeEntries (fileLength i s) queue).2))

/-- Read from Idle, once the path is known: open, then the first chunk in the same trigger (R441, D22). -/
def readOpen (i : FileId) (path : Bytes) (s : State) : State :=
  match hostRead path s with
  | (.error, t) => setResult i 0 t
  | (.file bytes, t) => readFileChunk i bytes 0 t
  | (.stats lines, t) => readStatsChunk i lines t

/-- Write in the Writing state (R447). -/
def writeChunk (i : FileId) (path : Bytes) (s : State) : State :=
  match hostWrite path (s.mem.readBytes (fileSource i s) (fileLength i s)) s with
  | (some count, t) => setResult i count t
  | (none, t) => setResult i 0 t

/-- Write from Idle, once the path is known: open, then the first chunk in the same trigger (R446). -/
def writeOpen (i : FileId) (path : Bytes) (s : State) : State :=
  if path = [] then setResult i 0 s
  else if fileAppends i s then writeChunk i path (s.setFd i (.writing path))
  else writeChunk i path ((hostCreate path s).setFd i (.writing path))

/-- An action on the path of a device; a path that is not terminated is refused (R86, R435). -/
def withPath (i : FileId) (s : State) (act : Bytes → State) : Except Refusal State :=
  match filePath i s with
  | none => .error .unterminatedPath
  | some path => .ok (act path)

/-- Stat (R437). -/
def fileStat (i : FileId) (s : State) : Except Refusal State :=
  withPath i s fun path => statPath i path s

/-- Delete, local 0x06 (R438). -/
def fileDelete (i : FileId) (s : State) : Except Refusal State :=
  withPath i s fun path => hostDelete path s

/-- Read, local 0x0C (R440). -/
def fileRead (i : FileId) (s : State) : Except Refusal State :=
  match s.fd i with
  | .idle => withPath i s fun path => readOpen i path s
  | .readingFile bytes cursor => .ok (readFileChunk i bytes cursor s)
  | .readingStats queue => .ok (readStatsChunk i queue s)
  | .writing _ => crossTrigger i s

/-- Write, local 0x0E (R445). -/
def fileWrite (i : FileId) (s : State) : Except Refusal State :=
  match s.fd i with
  | .idle => withPath i s fun path => writeOpen i path s
  | .writing path => .ok (writeChunk i path s)
  | .readingFile _ _ => crossTrigger i s
  | .readingStats _ => crossTrigger i s

/-- The trigger of a file slot at a local index (R432). -/
def fileTrigger (i : FileId) (index : BitVec 4) (s : State) : Except Refusal State :=
  match index.toNat with
  | 0x4 => fileStat i s
  | 0x6 => fileDelete i s
  | 0x8 => .ok (changeName i s)
  | 0xC => fileRead i s
  | 0xE => fileWrite i s
  | _ => .ok s

end Sys2Proof.Machine
end

