-- ==== Sys2Proof/Machine/Bus.lean ====
section
/-!
DEFINITION. The device bus (spec/46_device_bus.md): the slots of the port page, input and output of a port, and
the triggers of the system and console devices.
-/

namespace Sys2Proof.Machine

/-- The slot of a port, `p[7:4]` (R380). -/
def slotOf (p : Byte) : BitVec 4 := p.extractLsb' 4 4

/-- The slot-local index of a port, `p[3:0]` (R380). -/
def localOf (p : Byte) : BitVec 4 := p.extractLsb' 0 4

/-- The state with a byte stored in the port page (R382). -/
def storePort (p b : Byte) (s : State) : State := { s with port := s.port.set p b }

/-! ## Input -/

/-- `DevIn(p)`: synthesized in the datetime slot, else the stored byte (R381). -/
def devIn (p : Byte) (s : State) : Byte × State :=
  if slotOf p = 0xC then hostClock (localOf p) s else (s.port.get p, s)

/-- The input of DEI at its width: in short mode two reads, port p and then p +8 1 (R310, D9, D19). -/
def devInW (p : Byte) : (w : Width) → State → BitVec w.bits × State
  | .byte, s => devIn p s
  | .short, s =>
    (joinBytes (devIn p s).1 (devIn (p + 1) (devIn p s).2).1, (devIn (p + 1) (devIn p s).2).2)

/-! ## Output -/

/-- The system device at a local index: the debug view at 0xE, the state at 0xF (R385, R386, R387). -/
def systemTrigger (index : BitVec 4) (s : State) (next : Option Byte → State → Result) : Result :=
  if index = 0xE then
    if s.port.get 0x0E = 0 then next none s else next none (s.call (.debugView s.wst.page s.rst.page))
  else if index = 0xF then
    if s.port.get 0x0F = 0 then next none s else next (some (s.port.get 0x0F)) s
  else next none s

/-- The console device at a local index: standard output at 0x8, standard error at 0x9 (R388 to R392). -/
def consoleTrigger (index : BitVec 4) (s : State) (next : Option Byte → State → Result) : Result :=
  if index = 0x8 then next none (s.call (.stdout (s.port.get 0x18)))
  else if index = 0x9 then next none (s.call (.stderr (s.port.get 0x19)))
  else next none s

/-- A file device at a local index; a step that the device refuses is refused (R384, R435). -/
def fileSlotTrigger (i : FileId) (index : BitVec 4) (s : State) (next : Option Byte → State → Result) : Result :=
  match fileTrigger i index s with
  | .ok t => next none t
  | .error r => .refused r

/-- `Trigger(slot, i)` for port `p`: what the device in its slot does, and its halt code (R384). -/
def trigger (p : Byte) (s : State) (next : Option Byte → State → Result) : Result :=
  if slotOf p = 0x0 then systemTrigger (localOf p) s next
  else if slotOf p = 0x1 then consoleTrigger (localOf p) s next
  else if slotOf p = 0xA then fileSlotTrigger .file0 (localOf p) s next
  else if slotOf p = 0xB then fileSlotTrigger .file1 (localOf p) s next
  else next none s

/-- `DevOut(p, b)` (R382). -/
def devOut (p b : Byte) (s : State) (next : Option Byte → State → Result) : Result :=
  trigger p (storePort p b s) next

/-- `DevOut16(p, v)`: both bytes are stored, then the trigger of p runs, then the trigger of p +8 1 unless the
first gave a halt code (R383, C2, C3, D8). -/
def devOut16 (p : Byte) (v : Word) (s : State) (next : Option Byte → State → Result) : Result :=
  trigger p (storePort (p + 1) (loByte v) (storePort p (hiByte v) s)) fun halt s =>
  match halt with
  | some c => next (some c) s
  | none => trigger (p + 1) s next

/-- The output of DEO at its width (R311). -/
def devOutW (p : Byte) : (w : Width) → BitVec w.bits → State → (Option Byte → State → Result) → Result
  | .byte, b, s, next => devOut p b s next
  | .short, v, s, next => devOut16 p v s next

end Sys2Proof.Machine
end

