-- ==== Sys2Proof/Machine/DeviceIo.lean ====
section
/-!
DEFINITION. Device input and output (spec/44_device_io.md, R310 and R311). The meaning of a base operation is given
once, for every mode; each instruction of the opcode table has its own definition.
-/

namespace Sys2Proof.Machine

/-- DEI: the port is popped, one or two port bytes are read and pushed (R310). -/
def deiOp (m : Mode) (s : State) : Result :=
  pop8 (srcOf m) (selectKeep m s) fun p s =>
  push (srcOf m) m.width (devInW p m.width s).1 (devInW p m.width s).2 finish

/-- DEO: the port is popped first, then the value, which is written to the bus (R311). -/
def deoOp (m : Mode) (s : State) : Result :=
  pop8 (srcOf m) (selectKeep m s) fun p s =>
  pop (srcOf m) m.width s fun v s =>
  devOutW p m.width v s finishHalt

/-! ## DEI, base 0x16 (R310) -/

/-- DEI, 0x16: byte mode (R310). -/
def execDEI (s : State) : Result := deiOp ⟨false, false, false⟩ s

/-- DEI2, 0x36: short mode (R310). -/
def execDEI2 (s : State) : Result := deiOp ⟨false, false, true⟩ s

/-- DEIr, 0x56: return mode (R310). -/
def execDEIr (s : State) : Result := deiOp ⟨false, true, false⟩ s

/-- DEI2r, 0x76: short and return mode (R310). -/
def execDEI2r (s : State) : Result := deiOp ⟨false, true, true⟩ s

/-- DEIk, 0x96: keep mode (R310). -/
def execDEIk (s : State) : Result := deiOp ⟨true, false, false⟩ s

/-- DEI2k, 0xB6: short and keep mode (R310). -/
def execDEI2k (s : State) : Result := deiOp ⟨true, false, true⟩ s

/-- DEIkr, 0xD6: keep and return mode (R310). -/
def execDEIkr (s : State) : Result := deiOp ⟨true, true, false⟩ s

/-- DEI2kr, 0xF6: short and keep and return mode (R310). -/
def execDEI2kr (s : State) : Result := deiOp ⟨true, true, true⟩ s

/-! ## DEO, base 0x17 (R311) -/

/-- DEO, 0x17: byte mode (R311). -/
def execDEO (s : State) : Result := deoOp ⟨false, false, false⟩ s

/-- DEO2, 0x37: short mode (R311). -/
def execDEO2 (s : State) : Result := deoOp ⟨false, false, true⟩ s

/-- DEOr, 0x57: return mode (R311). -/
def execDEOr (s : State) : Result := deoOp ⟨false, true, false⟩ s

/-- DEO2r, 0x77: short and return mode (R311). -/
def execDEO2r (s : State) : Result := deoOp ⟨false, true, true⟩ s

/-- DEOk, 0x97: keep mode (R311). -/
def execDEOk (s : State) : Result := deoOp ⟨true, false, false⟩ s

/-- DEO2k, 0xB7: short and keep mode (R311). -/
def execDEO2k (s : State) : Result := deoOp ⟨true, false, true⟩ s

/-- DEOkr, 0xD7: keep and return mode (R311). -/
def execDEOkr (s : State) : Result := deoOp ⟨true, true, false⟩ s

/-- DEO2kr, 0xF7: short and keep and return mode (R311). -/
def execDEO2kr (s : State) : Result := deoOp ⟨true, true, true⟩ s

end Sys2Proof.Machine
end

