-- ==== Sys2Proof/Machine/LoadStore.lean ====
section
/-!
DEFINITION. Loads and stores (spec/43_load_store.md, R280 to R285). The meaning of a base operation is given once, for
every mode; each instruction of the opcode table has its own definition. pc is the address after the opcode byte.
-/

namespace Sys2Proof.Machine

/-- A load: the value of the instruction's width at an address is pushed onto SRC. -/
def loadFrom (m : Mode) (a : Word) (s : State) : Result :=
  push (srcOf m) m.width (s.mem.readW a m.width) s finish

/-- A store: a value of the instruction's width is popped from SRC and written at an address. -/
def storeTo (m : Mode) (a : Word) (s : State) : Result :=
  pop (srcOf m) m.width s fun v s =>
  finish { s with mem := s.mem.writeW a m.width v }

/-- LDZ: zero page (R280, D10). -/
def ldzOp (m : Mode) (s : State) : Result :=
  pop8 (srcOf m) (selectKeep m s) fun a s => loadFrom m (zeroPageAddress a) s

/-- STZ: zero page, the address popped first (R281, D4). -/
def stzOp (m : Mode) (s : State) : Result :=
  pop8 (srcOf m) (selectKeep m s) fun a s => storeTo m (zeroPageAddress a) s

/-- LDR: relative to pc (R282). -/
def ldrOp (m : Mode) (s : State) : Result :=
  pop8 (srcOf m) (selectKeep m s) fun d s => loadFrom m (relativeAddress s.pc d) s

/-- STR: relative to pc, the delta popped first (R283, D4). -/
def strOp (m : Mode) (s : State) : Result :=
  pop8 (srcOf m) (selectKeep m s) fun d s => storeTo m (relativeAddress s.pc d) s

/-- LDA: absolute (R284). -/
def ldaOp (m : Mode) (s : State) : Result :=
  pop16 (srcOf m) (selectKeep m s) fun a s => loadFrom m a s

/-- STA: absolute, the address popped first (R285, D4). -/
def staOp (m : Mode) (s : State) : Result :=
  pop16 (srcOf m) (selectKeep m s) fun a s => storeTo m a s

/-! ## LDZ, base 0x10 (R280) -/

/-- LDZ, 0x10: byte mode (R280). -/
def execLDZ (s : State) : Result := ldzOp ⟨false, false, false⟩ s

/-- LDZ2, 0x30: short mode (R280). -/
def execLDZ2 (s : State) : Result := ldzOp ⟨false, false, true⟩ s

/-- LDZr, 0x50: return mode (R280). -/
def execLDZr (s : State) : Result := ldzOp ⟨false, true, false⟩ s

/-- LDZ2r, 0x70: short and return mode (R280). -/
def execLDZ2r (s : State) : Result := ldzOp ⟨false, true, true⟩ s

/-- LDZk, 0x90: keep mode (R280). -/
def execLDZk (s : State) : Result := ldzOp ⟨true, false, false⟩ s

/-- LDZ2k, 0xB0: short and keep mode (R280). -/
def execLDZ2k (s : State) : Result := ldzOp ⟨true, false, true⟩ s

/-- LDZkr, 0xD0: keep and return mode (R280). -/
def execLDZkr (s : State) : Result := ldzOp ⟨true, true, false⟩ s

/-- LDZ2kr, 0xF0: short and keep and return mode (R280). -/
def execLDZ2kr (s : State) : Result := ldzOp ⟨true, true, true⟩ s

/-! ## STZ, base 0x11 (R281) -/

/-- STZ, 0x11: byte mode (R281). -/
def execSTZ (s : State) : Result := stzOp ⟨false, false, false⟩ s

/-- STZ2, 0x31: short mode (R281). -/
def execSTZ2 (s : State) : Result := stzOp ⟨false, false, true⟩ s

/-- STZr, 0x51: return mode (R281). -/
def execSTZr (s : State) : Result := stzOp ⟨false, true, false⟩ s

/-- STZ2r, 0x71: short and return mode (R281). -/
def execSTZ2r (s : State) : Result := stzOp ⟨false, true, true⟩ s

/-- STZk, 0x91: keep mode (R281). -/
def execSTZk (s : State) : Result := stzOp ⟨true, false, false⟩ s

/-- STZ2k, 0xB1: short and keep mode (R281). -/
def execSTZ2k (s : State) : Result := stzOp ⟨true, false, true⟩ s

/-- STZkr, 0xD1: keep and return mode (R281). -/
def execSTZkr (s : State) : Result := stzOp ⟨true, true, false⟩ s

/-- STZ2kr, 0xF1: short and keep and return mode (R281). -/
def execSTZ2kr (s : State) : Result := stzOp ⟨true, true, true⟩ s

/-! ## LDR, base 0x12 (R282) -/

/-- LDR, 0x12: byte mode (R282). -/
def execLDR (s : State) : Result := ldrOp ⟨false, false, false⟩ s

/-- LDR2, 0x32: short mode (R282). -/
def execLDR2 (s : State) : Result := ldrOp ⟨false, false, true⟩ s

/-- LDRr, 0x52: return mode (R282). -/
def execLDRr (s : State) : Result := ldrOp ⟨false, true, false⟩ s

/-- LDR2r, 0x72: short and return mode (R282). -/
def execLDR2r (s : State) : Result := ldrOp ⟨false, true, true⟩ s

/-- LDRk, 0x92: keep mode (R282). -/
def execLDRk (s : State) : Result := ldrOp ⟨true, false, false⟩ s

/-- LDR2k, 0xB2: short and keep mode (R282). -/
def execLDR2k (s : State) : Result := ldrOp ⟨true, false, true⟩ s

/-- LDRkr, 0xD2: keep and return mode (R282). -/
def execLDRkr (s : State) : Result := ldrOp ⟨true, true, false⟩ s

/-- LDR2kr, 0xF2: short and keep and return mode (R282). -/
def execLDR2kr (s : State) : Result := ldrOp ⟨true, true, true⟩ s

/-! ## STR, base 0x13 (R283) -/

/-- STR, 0x13: byte mode (R283). -/
def execSTR (s : State) : Result := strOp ⟨false, false, false⟩ s

/-- STR2, 0x33: short mode (R283). -/
def execSTR2 (s : State) : Result := strOp ⟨false, false, true⟩ s

/-- STRr, 0x53: return mode (R283). -/
def execSTRr (s : State) : Result := strOp ⟨false, true, false⟩ s

/-- STR2r, 0x73: short and return mode (R283). -/
def execSTR2r (s : State) : Result := strOp ⟨false, true, true⟩ s

/-- STRk, 0x93: keep mode (R283). -/
def execSTRk (s : State) : Result := strOp ⟨true, false, false⟩ s

/-- STR2k, 0xB3: short and keep mode (R283). -/
def execSTR2k (s : State) : Result := strOp ⟨true, false, true⟩ s

/-- STRkr, 0xD3: keep and return mode (R283). -/
def execSTRkr (s : State) : Result := strOp ⟨true, true, false⟩ s

/-- STR2kr, 0xF3: short and keep and return mode (R283). -/
def execSTR2kr (s : State) : Result := strOp ⟨true, true, true⟩ s

/-! ## LDA, base 0x14 (R284) -/

/-- LDA, 0x14: byte mode (R284). -/
def execLDA (s : State) : Result := ldaOp ⟨false, false, false⟩ s

/-- LDA2, 0x34: short mode (R284). -/
def execLDA2 (s : State) : Result := ldaOp ⟨false, false, true⟩ s

/-- LDAr, 0x54: return mode (R284). -/
def execLDAr (s : State) : Result := ldaOp ⟨false, true, false⟩ s

/-- LDA2r, 0x74: short and return mode (R284). -/
def execLDA2r (s : State) : Result := ldaOp ⟨false, true, true⟩ s

/-- LDAk, 0x94: keep mode (R284). -/
def execLDAk (s : State) : Result := ldaOp ⟨true, false, false⟩ s

/-- LDA2k, 0xB4: short and keep mode (R284). -/
def execLDA2k (s : State) : Result := ldaOp ⟨true, false, true⟩ s

/-- LDAkr, 0xD4: keep and return mode (R284). -/
def execLDAkr (s : State) : Result := ldaOp ⟨true, true, false⟩ s

/-- LDA2kr, 0xF4: short and keep and return mode (R284). -/
def execLDA2kr (s : State) : Result := ldaOp ⟨true, true, true⟩ s

/-! ## STA, base 0x15 (R285) -/

/-- STA, 0x15: byte mode (R285). -/
def execSTA (s : State) : Result := staOp ⟨false, false, false⟩ s

/-- STA2, 0x35: short mode (R285). -/
def execSTA2 (s : State) : Result := staOp ⟨false, false, true⟩ s

/-- STAr, 0x55: return mode (R285). -/
def execSTAr (s : State) : Result := staOp ⟨false, true, false⟩ s

/-- STA2r, 0x75: short and return mode (R285). -/
def execSTA2r (s : State) : Result := staOp ⟨false, true, true⟩ s

/-- STAk, 0x95: keep mode (R285). -/
def execSTAk (s : State) : Result := staOp ⟨true, false, false⟩ s

/-- STA2k, 0xB5: short and keep mode (R285). -/
def execSTA2k (s : State) : Result := staOp ⟨true, false, true⟩ s

/-- STAkr, 0xD5: keep and return mode (R285). -/
def execSTAkr (s : State) : Result := staOp ⟨true, true, false⟩ s

/-- STA2kr, 0xF5: short and keep and return mode (R285). -/
def execSTA2kr (s : State) : Result := staOp ⟨true, true, true⟩ s

end Sys2Proof.Machine
end

