-- ==== Sys2Proof/Machine/StackOps.lean ====
section
/-!
DEFINITION. BRK, the reserved no-ops, LIT and the stack operations (spec/41_stack_ops.md, R200 to R209). The meaning
of a base operation is given once, for every mode; each instruction of the opcode table has its own definition.
-/

namespace Sys2Proof.Machine

/-! ## BRK, the no-ops and LIT -/

/-- BRK, 0x00: Break, and nothing else changes (R172, R200). -/
def execBRK (s : State) : Result := .next { s with event := some .brk }

/-- A reserved no-op: nothing beyond the tick's own `keep_off(SRC)` (R201). -/
def nopOp (m : Mode) (s : State) : Result := finish (selectKeep m s)

/-- NOP20, 0x20 (R127, R201, C6). -/
def execNOP20 (s : State) : Result := nopOp ⟨false, false, true⟩ s

/-- NOP40, 0x40 (R127, R201, C6). -/
def execNOP40 (s : State) : Result := nopOp ⟨false, true, false⟩ s

/-- NOP60, 0x60 (R127, R201, C6). -/
def execNOP60 (s : State) : Result := nopOp ⟨false, true, true⟩ s

/-- LIT: pc advances past the immediate, then the immediate is pushed (R202, D11). -/
def litOp (m : Mode) (imm : BitVec m.width.bits) (s : State) : Result :=
  push (srcOf m) m.width imm
    { selectKeep m s with pc := s.pc + BitVec.ofNat 16 m.width.bytes } finish

/-- LIT, 0x80 (R202). -/
def execLIT (imm : Byte) (s : State) : Result := litOp ⟨true, false, false⟩ imm s

/-- LIT2, 0xA0 (R202). -/
def execLIT2 (imm : Word) (s : State) : Result := litOp ⟨true, false, true⟩ imm s

/-- LITr, 0xC0 (R202). -/
def execLITr (imm : Byte) (s : State) : Result := litOp ⟨true, true, false⟩ imm s

/-- LIT2r, 0xE0 (R202). -/
def execLIT2r (imm : Word) (s : State) : Result := litOp ⟨true, true, true⟩ imm s

/-! ## The base operations -/

/-- INC: push(pop + 1) (R203). -/
def incOp (m : Mode) (s : State) : Result :=
  pop (srcOf m) m.width (selectKeep m s) fun a s =>
  push (srcOf m) m.width (a + 1) s finish

/-- POP: the popped value is discarded (R204). -/
def popOp (m : Mode) (s : State) : Result :=
  pop (srcOf m) m.width (selectKeep m s) fun _ s =>
  finish s

/-- NIP: [b a] -> [a] (R205). -/
def nipOp (m : Mode) (s : State) : Result :=
  pop (srcOf m) m.width (selectKeep m s) fun a s =>
  pop (srcOf m) m.width s fun _ s =>
  push (srcOf m) m.width a s finish

/-- SWP: [b a] -> [a b] (R206). -/
def swpOp (m : Mode) (s : State) : Result :=
  pop (srcOf m) m.width (selectKeep m s) fun a s =>
  pop (srcOf m) m.width s fun b s =>
  push (srcOf m) m.width a s fun s =>
  push (srcOf m) m.width b s finish

/-- ROT: [c b a] -> [b a c] (R207). -/
def rotOp (m : Mode) (s : State) : Result :=
  pop (srcOf m) m.width (selectKeep m s) fun a s =>
  pop (srcOf m) m.width s fun b s =>
  pop (srcOf m) m.width s fun c s =>
  push (srcOf m) m.width b s fun s =>
  push (srcOf m) m.width a s fun s =>
  push (srcOf m) m.width c s finish

/-- DUP: [a] -> [a a] (R208). -/
def dupOp (m : Mode) (s : State) : Result :=
  pop (srcOf m) m.width (selectKeep m s) fun a s =>
  push (srcOf m) m.width a s fun s =>
  push (srcOf m) m.width a s finish

/-- OVR: [b a] -> [b a b] (R209). -/
def ovrOp (m : Mode) (s : State) : Result :=
  pop (srcOf m) m.width (selectKeep m s) fun a s =>
  pop (srcOf m) m.width s fun b s =>
  push (srcOf m) m.width b s fun s =>
  push (srcOf m) m.width a s fun s =>
  push (srcOf m) m.width b s finish

/-! ## INC, base 0x01 (R203) -/

/-- INC, 0x01: byte mode (R203). -/
def execINC (s : State) : Result := incOp ⟨false, false, false⟩ s

/-- INC2, 0x21: short mode (R203). -/
def execINC2 (s : State) : Result := incOp ⟨false, false, true⟩ s

/-- INCr, 0x41: return mode (R203). -/
def execINCr (s : State) : Result := incOp ⟨false, true, false⟩ s

/-- INC2r, 0x61: short and return mode (R203). -/
def execINC2r (s : State) : Result := incOp ⟨false, true, true⟩ s

/-- INCk, 0x81: keep mode (R203). -/
def execINCk (s : State) : Result := incOp ⟨true, false, false⟩ s

/-- INC2k, 0xA1: short and keep mode (R203). -/
def execINC2k (s : State) : Result := incOp ⟨true, false, true⟩ s

/-- INCkr, 0xC1: keep and return mode (R203). -/
def execINCkr (s : State) : Result := incOp ⟨true, true, false⟩ s

/-- INC2kr, 0xE1: short and keep and return mode (R203). -/
def execINC2kr (s : State) : Result := incOp ⟨true, true, true⟩ s

/-! ## POP, base 0x02 (R204) -/

/-- POP, 0x02: byte mode (R204). -/
def execPOP (s : State) : Result := popOp ⟨false, false, false⟩ s

/-- POP2, 0x22: short mode (R204). -/
def execPOP2 (s : State) : Result := popOp ⟨false, false, true⟩ s

/-- POPr, 0x42: return mode (R204). -/
def execPOPr (s : State) : Result := popOp ⟨false, true, false⟩ s

/-- POP2r, 0x62: short and return mode (R204). -/
def execPOP2r (s : State) : Result := popOp ⟨false, true, true⟩ s

/-- POPk, 0x82: keep mode (R204). -/
def execPOPk (s : State) : Result := popOp ⟨true, false, false⟩ s

/-- POP2k, 0xA2: short and keep mode (R204). -/
def execPOP2k (s : State) : Result := popOp ⟨true, false, true⟩ s

/-- POPkr, 0xC2: keep and return mode (R204). -/
def execPOPkr (s : State) : Result := popOp ⟨true, true, false⟩ s

/-- POP2kr, 0xE2: short and keep and return mode (R204). -/
def execPOP2kr (s : State) : Result := popOp ⟨true, true, true⟩ s

/-! ## NIP, base 0x03 (R205) -/

/-- NIP, 0x03: byte mode (R205). -/
def execNIP (s : State) : Result := nipOp ⟨false, false, false⟩ s

/-- NIP2, 0x23: short mode (R205). -/
def execNIP2 (s : State) : Result := nipOp ⟨false, false, true⟩ s

/-- NIPr, 0x43: return mode (R205). -/
def execNIPr (s : State) : Result := nipOp ⟨false, true, false⟩ s

/-- NIP2r, 0x63: short and return mode (R205). -/
def execNIP2r (s : State) : Result := nipOp ⟨false, true, true⟩ s

/-- NIPk, 0x83: keep mode (R205). -/
def execNIPk (s : State) : Result := nipOp ⟨true, false, false⟩ s

/-- NIP2k, 0xA3: short and keep mode (R205). -/
def execNIP2k (s : State) : Result := nipOp ⟨true, false, true⟩ s

/-- NIPkr, 0xC3: keep and return mode (R205). -/
def execNIPkr (s : State) : Result := nipOp ⟨true, true, false⟩ s

/-- NIP2kr, 0xE3: short and keep and return mode (R205). -/
def execNIP2kr (s : State) : Result := nipOp ⟨true, true, true⟩ s

/-! ## SWP, base 0x04 (R206) -/

/-- SWP, 0x04: byte mode (R206). -/
def execSWP (s : State) : Result := swpOp ⟨false, false, false⟩ s

/-- SWP2, 0x24: short mode (R206). -/
def execSWP2 (s : State) : Result := swpOp ⟨false, false, true⟩ s

/-- SWPr, 0x44: return mode (R206). -/
def execSWPr (s : State) : Result := swpOp ⟨false, true, false⟩ s

/-- SWP2r, 0x64: short and return mode (R206). -/
def execSWP2r (s : State) : Result := swpOp ⟨false, true, true⟩ s

/-- SWPk, 0x84: keep mode (R206). -/
def execSWPk (s : State) : Result := swpOp ⟨true, false, false⟩ s

/-- SWP2k, 0xA4: short and keep mode (R206). -/
def execSWP2k (s : State) : Result := swpOp ⟨true, false, true⟩ s

/-- SWPkr, 0xC4: keep and return mode (R206). -/
def execSWPkr (s : State) : Result := swpOp ⟨true, true, false⟩ s

/-- SWP2kr, 0xE4: short and keep and return mode (R206). -/
def execSWP2kr (s : State) : Result := swpOp ⟨true, true, true⟩ s

/-! ## ROT, base 0x05 (R207) -/

/-- ROT, 0x05: byte mode (R207). -/
def execROT (s : State) : Result := rotOp ⟨false, false, false⟩ s

/-- ROT2, 0x25: short mode (R207). -/
def execROT2 (s : State) : Result := rotOp ⟨false, false, true⟩ s

/-- ROTr, 0x45: return mode (R207). -/
def execROTr (s : State) : Result := rotOp ⟨false, true, false⟩ s

/-- ROT2r, 0x65: short and return mode (R207). -/
def execROT2r (s : State) : Result := rotOp ⟨false, true, true⟩ s

/-- ROTk, 0x85: keep mode (R207). -/
def execROTk (s : State) : Result := rotOp ⟨true, false, false⟩ s

/-- ROT2k, 0xA5: short and keep mode (R207). -/
def execROT2k (s : State) : Result := rotOp ⟨true, false, true⟩ s

/-- ROTkr, 0xC5: keep and return mode (R207). -/
def execROTkr (s : State) : Result := rotOp ⟨true, true, false⟩ s

/-- ROT2kr, 0xE5: short and keep and return mode (R207). -/
def execROT2kr (s : State) : Result := rotOp ⟨true, true, true⟩ s

/-! ## DUP, base 0x06 (R208) -/

/-- DUP, 0x06: byte mode (R208). -/
def execDUP (s : State) : Result := dupOp ⟨false, false, false⟩ s

/-- DUP2, 0x26: short mode (R208). -/
def execDUP2 (s : State) : Result := dupOp ⟨false, false, true⟩ s

/-- DUPr, 0x46: return mode (R208). -/
def execDUPr (s : State) : Result := dupOp ⟨false, true, false⟩ s

/-- DUP2r, 0x66: short and return mode (R208). -/
def execDUP2r (s : State) : Result := dupOp ⟨false, true, true⟩ s

/-- DUPk, 0x86: keep mode (R208). -/
def execDUPk (s : State) : Result := dupOp ⟨true, false, false⟩ s

/-- DUP2k, 0xA6: short and keep mode (R208). -/
def execDUP2k (s : State) : Result := dupOp ⟨true, false, true⟩ s

/-- DUPkr, 0xC6: keep and return mode (R208). -/
def execDUPkr (s : State) : Result := dupOp ⟨true, true, false⟩ s

/-- DUP2kr, 0xE6: short and keep and return mode (R208). -/
def execDUP2kr (s : State) : Result := dupOp ⟨true, true, true⟩ s

/-! ## OVR, base 0x07 (R209) -/

/-- OVR, 0x07: byte mode (R209). -/
def execOVR (s : State) : Result := ovrOp ⟨false, false, false⟩ s

/-- OVR2, 0x27: short mode (R209). -/
def execOVR2 (s : State) : Result := ovrOp ⟨false, false, true⟩ s

/-- OVRr, 0x47: return mode (R209). -/
def execOVRr (s : State) : Result := ovrOp ⟨false, true, false⟩ s

/-- OVR2r, 0x67: short and return mode (R209). -/
def execOVR2r (s : State) : Result := ovrOp ⟨false, true, true⟩ s

/-- OVRk, 0x87: keep mode (R209). -/
def execOVRk (s : State) : Result := ovrOp ⟨true, false, false⟩ s

/-- OVR2k, 0xA7: short and keep mode (R209). -/
def execOVR2k (s : State) : Result := ovrOp ⟨true, false, true⟩ s

/-- OVRkr, 0xC7: keep and return mode (R209). -/
def execOVRkr (s : State) : Result := ovrOp ⟨true, true, false⟩ s

/-- OVR2kr, 0xE7: short and keep and return mode (R209). -/
def execOVR2kr (s : State) : Result := ovrOp ⟨true, true, true⟩ s

end Sys2Proof.Machine
end

