-- ==== Sys2Proof/Machine/Dispatch.lean ====
section
/-!
DEFINITION. The dispatch of an instruction to its meaning (R165 of spec/40_dispatch.md), one arm for each
constructor of Instr.
-/

namespace Sys2Proof.Machine

def exec (i : Instr) (s : State) : Host.Outcome State Fault Refusal :=
  match i with
  | .brk => Sys2Proof.Machine.execBRK s
  | .inc => Sys2Proof.Machine.execINC s
  | .pop => Sys2Proof.Machine.execPOP s
  | .nip => Sys2Proof.Machine.execNIP s
  | .swp => Sys2Proof.Machine.execSWP s
  | .rot => Sys2Proof.Machine.execROT s
  | .dup => Sys2Proof.Machine.execDUP s
  | .ovr => Sys2Proof.Machine.execOVR s
  | .equ => Sys2Proof.Machine.execEQU s
  | .neq => Sys2Proof.Machine.execNEQ s
  | .gth => Sys2Proof.Machine.execGTH s
  | .lth => Sys2Proof.Machine.execLTH s
  | .jmp => Sys2Proof.Machine.execJMP s
  | .jcn => Sys2Proof.Machine.execJCN s
  | .jsr => Sys2Proof.Machine.execJSR s
  | .sth => Sys2Proof.Machine.execSTH s
  | .ldz => Sys2Proof.Machine.execLDZ s
  | .stz => Sys2Proof.Machine.execSTZ s
  | .ldr => Sys2Proof.Machine.execLDR s
  | .str => Sys2Proof.Machine.execSTR s
  | .lda => Sys2Proof.Machine.execLDA s
  | .sta => Sys2Proof.Machine.execSTA s
  | .dei => Sys2Proof.Machine.execDEI s
  | .deo => Sys2Proof.Machine.execDEO s
  | .add => Sys2Proof.Machine.execADD s
  | .sub => Sys2Proof.Machine.execSUB s
  | .mul => Sys2Proof.Machine.execMUL s
  | .div => Sys2Proof.Machine.execDIV s
  | .and => Sys2Proof.Machine.execAND s
  | .ora => Sys2Proof.Machine.execORA s
  | .eor => Sys2Proof.Machine.execEOR s
  | .sft => Sys2Proof.Machine.execSFT s
  | .nop20 => Sys2Proof.Machine.execNOP20 s
  | .inc2 => Sys2Proof.Machine.execINC2 s
  | .pop2 => Sys2Proof.Machine.execPOP2 s
  | .nip2 => Sys2Proof.Machine.execNIP2 s
  | .swp2 => Sys2Proof.Machine.execSWP2 s
  | .rot2 => Sys2Proof.Machine.execROT2 s
  | .dup2 => Sys2Proof.Machine.execDUP2 s
  | .ovr2 => Sys2Proof.Machine.execOVR2 s
  | .equ2 => Sys2Proof.Machine.execEQU2 s
  | .neq2 => Sys2Proof.Machine.execNEQ2 s
  | .gth2 => Sys2Proof.Machine.execGTH2 s
  | .lth2 => Sys2Proof.Machine.execLTH2 s
  | .jmp2 => Sys2Proof.Machine.execJMP2 s
  | .jcn2 => Sys2Proof.Machine.execJCN2 s
  | .jsr2 => Sys2Proof.Machine.execJSR2 s
  | .sth2 => Sys2Proof.Machine.execSTH2 s
  | .ldz2 => Sys2Proof.Machine.execLDZ2 s
  | .stz2 => Sys2Proof.Machine.execSTZ2 s
  | .ldr2 => Sys2Proof.Machine.execLDR2 s
  | .str2 => Sys2Proof.Machine.execSTR2 s
  | .lda2 => Sys2Proof.Machine.execLDA2 s
  | .sta2 => Sys2Proof.Machine.execSTA2 s
  | .dei2 => Sys2Proof.Machine.execDEI2 s
  | .deo2 => Sys2Proof.Machine.execDEO2 s
  | .add2 => Sys2Proof.Machine.execADD2 s
  | .sub2 => Sys2Proof.Machine.execSUB2 s
  | .mul2 => Sys2Proof.Machine.execMUL2 s
  | .div2 => Sys2Proof.Machine.execDIV2 s
  | .and2 => Sys2Proof.Machine.execAND2 s
  | .ora2 => Sys2Proof.Machine.execORA2 s
  | .eor2 => Sys2Proof.Machine.execEOR2 s
  | .sft2 => Sys2Proof.Machine.execSFT2 s
  | .nop40 => Sys2Proof.Machine.execNOP40 s
  | .incr => Sys2Proof.Machine.execINCr s
  | .popr => Sys2Proof.Machine.execPOPr s
  | .nipr => Sys2Proof.Machine.execNIPr s
  | .swpr => Sys2Proof.Machine.execSWPr s
  | .rotr => Sys2Proof.Machine.execROTr s
  | .dupr => Sys2Proof.Machine.execDUPr s
  | .ovrr => Sys2Proof.Machine.execOVRr s
  | .equr => Sys2Proof.Machine.execEQUr s
  | .neqr => Sys2Proof.Machine.execNEQr s
  | .gthr => Sys2Proof.Machine.execGTHr s
  | .lthr => Sys2Proof.Machine.execLTHr s
  | .jmpr => Sys2Proof.Machine.execJMPr s
  | .jcnr => Sys2Proof.Machine.execJCNr s
  | .jsrr => Sys2Proof.Machine.execJSRr s
  | .sthr => Sys2Proof.Machine.execSTHr s
  | .ldzr => Sys2Proof.Machine.execLDZr s
  | .stzr => Sys2Proof.Machine.execSTZr s
  | .ldrr => Sys2Proof.Machine.execLDRr s
  | .strr => Sys2Proof.Machine.execSTRr s
  | .ldar => Sys2Proof.Machine.execLDAr s
  | .star => Sys2Proof.Machine.execSTAr s
  | .deir => Sys2Proof.Machine.execDEIr s
  | .deor => Sys2Proof.Machine.execDEOr s
  | .addr => Sys2Proof.Machine.execADDr s
  | .subr => Sys2Proof.Machine.execSUBr s
  | .mulr => Sys2Proof.Machine.execMULr s
  | .divr => Sys2Proof.Machine.execDIVr s
  | .andr => Sys2Proof.Machine.execANDr s
  | .orar => Sys2Proof.Machine.execORAr s
  | .eorr => Sys2Proof.Machine.execEORr s
  | .sftr => Sys2Proof.Machine.execSFTr s
  | .nop60 => Sys2Proof.Machine.execNOP60 s
  | .inc2r => Sys2Proof.Machine.execINC2r s
  | .pop2r => Sys2Proof.Machine.execPOP2r s
  | .nip2r => Sys2Proof.Machine.execNIP2r s
  | .swp2r => Sys2Proof.Machine.execSWP2r s
  | .rot2r => Sys2Proof.Machine.execROT2r s
  | .dup2r => Sys2Proof.Machine.execDUP2r s
  | .ovr2r => Sys2Proof.Machine.execOVR2r s
  | .equ2r => Sys2Proof.Machine.execEQU2r s
  | .neq2r => Sys2Proof.Machine.execNEQ2r s
  | .gth2r => Sys2Proof.Machine.execGTH2r s
  | .lth2r => Sys2Proof.Machine.execLTH2r s
  | .jmp2r => Sys2Proof.Machine.execJMP2r s
  | .jcn2r => Sys2Proof.Machine.execJCN2r s
  | .jsr2r => Sys2Proof.Machine.execJSR2r s
  | .sth2r => Sys2Proof.Machine.execSTH2r s
  | .ldz2r => Sys2Proof.Machine.execLDZ2r s
  | .stz2r => Sys2Proof.Machine.execSTZ2r s
  | .ldr2r => Sys2Proof.Machine.execLDR2r s
  | .str2r => Sys2Proof.Machine.execSTR2r s
  | .lda2r => Sys2Proof.Machine.execLDA2r s
  | .sta2r => Sys2Proof.Machine.execSTA2r s
  | .dei2r => Sys2Proof.Machine.execDEI2r s
  | .deo2r => Sys2Proof.Machine.execDEO2r s
  | .add2r => Sys2Proof.Machine.execADD2r s
  | .sub2r => Sys2Proof.Machine.execSUB2r s
  | .mul2r => Sys2Proof.Machine.execMUL2r s
  | .div2r => Sys2Proof.Machine.execDIV2r s
  | .and2r => Sys2Proof.Machine.execAND2r s
  | .ora2r => Sys2Proof.Machine.execORA2r s
  | .eor2r => Sys2Proof.Machine.execEOR2r s
  | .sft2r => Sys2Proof.Machine.execSFT2r s
  | .lit imm => Sys2Proof.Machine.execLIT imm s
  | .inck => Sys2Proof.Machine.execINCk s
  | .popk => Sys2Proof.Machine.execPOPk s
  | .nipk => Sys2Proof.Machine.execNIPk s
  | .swpk => Sys2Proof.Machine.execSWPk s
  | .rotk => Sys2Proof.Machine.execROTk s
  | .dupk => Sys2Proof.Machine.execDUPk s
  | .ovrk => Sys2Proof.Machine.execOVRk s
  | .equk => Sys2Proof.Machine.execEQUk s
  | .neqk => Sys2Proof.Machine.execNEQk s
  | .gthk => Sys2Proof.Machine.execGTHk s
  | .lthk => Sys2Proof.Machine.execLTHk s
  | .jmpk => Sys2Proof.Machine.execJMPk s
  | .jcnk => Sys2Proof.Machine.execJCNk s
  | .jsrk => Sys2Proof.Machine.execJSRk s
  | .sthk => Sys2Proof.Machine.execSTHk s
  | .ldzk => Sys2Proof.Machine.execLDZk s
  | .stzk => Sys2Proof.Machine.execSTZk s
  | .ldrk => Sys2Proof.Machine.execLDRk s
  | .strk => Sys2Proof.Machine.execSTRk s
  | .ldak => Sys2Proof.Machine.execLDAk s
  | .stak => Sys2Proof.Machine.execSTAk s
  | .deik => Sys2Proof.Machine.execDEIk s
  | .deok => Sys2Proof.Machine.execDEOk s
  | .addk => Sys2Proof.Machine.execADDk s
  | .subk => Sys2Proof.Machine.execSUBk s
  | .mulk => Sys2Proof.Machine.execMULk s
  | .divk => Sys2Proof.Machine.execDIVk s
  | .andk => Sys2Proof.Machine.execANDk s
  | .orak => Sys2Proof.Machine.execORAk s
  | .eork => Sys2Proof.Machine.execEORk s
  | .sftk => Sys2Proof.Machine.execSFTk s
  | .lit2 imm => Sys2Proof.Machine.execLIT2 imm s
  | .inc2k => Sys2Proof.Machine.execINC2k s
  | .pop2k => Sys2Proof.Machine.execPOP2k s
  | .nip2k => Sys2Proof.Machine.execNIP2k s
  | .swp2k => Sys2Proof.Machine.execSWP2k s
  | .rot2k => Sys2Proof.Machine.execROT2k s
  | .dup2k => Sys2Proof.Machine.execDUP2k s
  | .ovr2k => Sys2Proof.Machine.execOVR2k s
  | .equ2k => Sys2Proof.Machine.execEQU2k s
  | .neq2k => Sys2Proof.Machine.execNEQ2k s
  | .gth2k => Sys2Proof.Machine.execGTH2k s
  | .lth2k => Sys2Proof.Machine.execLTH2k s
  | .jmp2k => Sys2Proof.Machine.execJMP2k s
  | .jcn2k => Sys2Proof.Machine.execJCN2k s
  | .jsr2k => Sys2Proof.Machine.execJSR2k s
  | .sth2k => Sys2Proof.Machine.execSTH2k s
  | .ldz2k => Sys2Proof.Machine.execLDZ2k s
  | .stz2k => Sys2Proof.Machine.execSTZ2k s
  | .ldr2k => Sys2Proof.Machine.execLDR2k s
  | .str2k => Sys2Proof.Machine.execSTR2k s
  | .lda2k => Sys2Proof.Machine.execLDA2k s
  | .sta2k => Sys2Proof.Machine.execSTA2k s
  | .dei2k => Sys2Proof.Machine.execDEI2k s
  | .deo2k => Sys2Proof.Machine.execDEO2k s
  | .add2k => Sys2Proof.Machine.execADD2k s
  | .sub2k => Sys2Proof.Machine.execSUB2k s
  | .mul2k => Sys2Proof.Machine.execMUL2k s
  | .div2k => Sys2Proof.Machine.execDIV2k s
  | .and2k => Sys2Proof.Machine.execAND2k s
  | .ora2k => Sys2Proof.Machine.execORA2k s
  | .eor2k => Sys2Proof.Machine.execEOR2k s
  | .sft2k => Sys2Proof.Machine.execSFT2k s
  | .litr imm => Sys2Proof.Machine.execLITr imm s
  | .inckr => Sys2Proof.Machine.execINCkr s
  | .popkr => Sys2Proof.Machine.execPOPkr s
  | .nipkr => Sys2Proof.Machine.execNIPkr s
  | .swpkr => Sys2Proof.Machine.execSWPkr s
  | .rotkr => Sys2Proof.Machine.execROTkr s
  | .dupkr => Sys2Proof.Machine.execDUPkr s
  | .ovrkr => Sys2Proof.Machine.execOVRkr s
  | .equkr => Sys2Proof.Machine.execEQUkr s
  | .neqkr => Sys2Proof.Machine.execNEQkr s
  | .gthkr => Sys2Proof.Machine.execGTHkr s
  | .lthkr => Sys2Proof.Machine.execLTHkr s
  | .jmpkr => Sys2Proof.Machine.execJMPkr s
  | .jcnkr => Sys2Proof.Machine.execJCNkr s
  | .jsrkr => Sys2Proof.Machine.execJSRkr s
  | .sthkr => Sys2Proof.Machine.execSTHkr s
  | .ldzkr => Sys2Proof.Machine.execLDZkr s
  | .stzkr => Sys2Proof.Machine.execSTZkr s
  | .ldrkr => Sys2Proof.Machine.execLDRkr s
  | .strkr => Sys2Proof.Machine.execSTRkr s
  | .ldakr => Sys2Proof.Machine.execLDAkr s
  | .stakr => Sys2Proof.Machine.execSTAkr s
  | .deikr => Sys2Proof.Machine.execDEIkr s
  | .deokr => Sys2Proof.Machine.execDEOkr s
  | .addkr => Sys2Proof.Machine.execADDkr s
  | .subkr => Sys2Proof.Machine.execSUBkr s
  | .mulkr => Sys2Proof.Machine.execMULkr s
  | .divkr => Sys2Proof.Machine.execDIVkr s
  | .andkr => Sys2Proof.Machine.execANDkr s
  | .orakr => Sys2Proof.Machine.execORAkr s
  | .eorkr => Sys2Proof.Machine.execEORkr s
  | .sftkr => Sys2Proof.Machine.execSFTkr s
  | .lit2r imm => Sys2Proof.Machine.execLIT2r imm s
  | .inc2kr => Sys2Proof.Machine.execINC2kr s
  | .pop2kr => Sys2Proof.Machine.execPOP2kr s
  | .nip2kr => Sys2Proof.Machine.execNIP2kr s
  | .swp2kr => Sys2Proof.Machine.execSWP2kr s
  | .rot2kr => Sys2Proof.Machine.execROT2kr s
  | .dup2kr => Sys2Proof.Machine.execDUP2kr s
  | .ovr2kr => Sys2Proof.Machine.execOVR2kr s
  | .equ2kr => Sys2Proof.Machine.execEQU2kr s
  | .neq2kr => Sys2Proof.Machine.execNEQ2kr s
  | .gth2kr => Sys2Proof.Machine.execGTH2kr s
  | .lth2kr => Sys2Proof.Machine.execLTH2kr s
  | .jmp2kr => Sys2Proof.Machine.execJMP2kr s
  | .jcn2kr => Sys2Proof.Machine.execJCN2kr s
  | .jsr2kr => Sys2Proof.Machine.execJSR2kr s
  | .sth2kr => Sys2Proof.Machine.execSTH2kr s
  | .ldz2kr => Sys2Proof.Machine.execLDZ2kr s
  | .stz2kr => Sys2Proof.Machine.execSTZ2kr s
  | .ldr2kr => Sys2Proof.Machine.execLDR2kr s
  | .str2kr => Sys2Proof.Machine.execSTR2kr s
  | .lda2kr => Sys2Proof.Machine.execLDA2kr s
  | .sta2kr => Sys2Proof.Machine.execSTA2kr s
  | .dei2kr => Sys2Proof.Machine.execDEI2kr s
  | .deo2kr => Sys2Proof.Machine.execDEO2kr s
  | .add2kr => Sys2Proof.Machine.execADD2kr s
  | .sub2kr => Sys2Proof.Machine.execSUB2kr s
  | .mul2kr => Sys2Proof.Machine.execMUL2kr s
  | .div2kr => Sys2Proof.Machine.execDIV2kr s
  | .and2kr => Sys2Proof.Machine.execAND2kr s
  | .ora2kr => Sys2Proof.Machine.execORA2kr s
  | .eor2kr => Sys2Proof.Machine.execEOR2kr s
  | .sft2kr => Sys2Proof.Machine.execSFT2kr s

end Sys2Proof.Machine
end

