-- ==== Sys2Proof/WellFormed.lean ====
section
/-!
DEFINITION. What is well formed: an instruction, a ROM image, and the machine's parameters.
-/

namespace Sys2Proof

/-- Every instruction is well formed: the only field of an instruction is the immediate of a LIT form, whose
type is already as wide as its encoding (R126), and every opcode byte is defined (R131). -/
def Instr.wellFormed (_ : Instr) : Bool := true

/-- A ROM the loader accepts: at most 65,280 bytes, 0x10000 - 0x100 (R541, D34). -/
def romWellFormed (rom : List Byte) : Bool := decide (rom.length ≤ 65280)

/-- Parameters the spec allows: `WEEKDAY_MAP` is injective (D17). The other parameters are free within their
types. -/
def Params.wellFormed (p : Params) : Bool := p.weekdaysInjective

end Sys2Proof
end

