-- ==== Sys2Proof/Machine/Tick.lean ====
section
/-!
DEFINITION. The tick (R161 of spec/40_dispatch.md), the host's resumption of a run at the console vector (R502 of
spec/60_exceptions.md), one step of the machine, and the ROM load (R541 of spec/70_reset_and_hazards.md).
-/

namespace Sys2Proof.Machine

/-- The byte at pc and the two bytes after it, addresses wrapping (R83, R161). -/
def fetchBytes (s : State) : List Byte :=
  [s.mem.read s.pc, s.mem.read (s.pc + 1), s.mem.read (s.pc + 2)]

/-- The instruction at pc. Only the LIT forms use the second and third byte (R126). -/
def fetchInstr (s : State) : Instr :=
  decodeOp (s.mem.read s.pc) (s.mem.read (s.pc + 1)) (s.mem.read (s.pc + 2))

/-- One tick: BRK is found before the fetch and pc stays; every other instruction runs with pc at the byte after
its opcode (R161, R172). -/
def tick (s : State) : Result :=
  if s.mem.read s.pc = 0x00 then exec .brk s else exec (fetchInstr s) { s with pc := s.pc + 1 }

/-- The console vector, ports 0x10 and 0x11 (R388, C1). -/
def consoleVector (s : State) : Word := joinBytes (s.port.get 0x10) (s.port.get 0x11)

/-- The host's next key, `none` at the end of its input, and the state after the call (R505, D14). -/
def hostKey (s : State) : Option Byte × State :=
  (answer s.outside.keys Config.keyInput s.outside.draws,
    { s.call .key with outside :=
      { (s.call .key).outside with keys := s.outside.keys.tail, draws := s.outside.draws + 1 } })

/-- The host's event loop after a Break: with a console vector and a key it stores the key in port 0x12, fires no
trigger, sets pc to the vector and resumes (R502, R506, D15). -/
def resume (s : State) : Result :=
  if consoleVector s = 0 then .fault .brokeWithoutVector
  else match hostKey s with
    | (none, _) => .fault .keyInputEnded
    | (some key, t) => .next { t with port := t.port.set 0x12 key, pc := consoleVector s, event := none }

/-- One step: a tick while the run goes on, the host's resumption after a Break, and no step after a Halt or an
Error (R168, R502, R503, R504). -/
def runStep (s : State) : Result :=
  match s.event with
  | none => tick s
  | some .brk => resume s
  | some (.halt code) => .fault (.halted code)
  | some (.error kind) => .fault (.errored kind)

/-- The bytes of a ROM written from 0x0100 on; a ROM of more than 65,280 bytes is refused (R541, D34). -/
def loadRom (rom : List Byte) (s : State) : Result :=
  if romWellFormed rom then .next { s with mem := s.mem.writeBytes 0x0100 rom } else .refused .romTooLong

/-- The launch of a program: reset, then the ROM load (R540). -/
def boot (rom : List Byte) : Result := loadRom rom State.reset

/-- The exit status of the host process after a run that ended, where the source gives or names one: the halt
byte, or `EXIT_NO_VECTOR` (R513, D13); none after an Error or at the end of the key input (D39). -/
def exitStatus : Fault → Option Nat
  | .halted code => some code.toNat
  | .brokeWithoutVector => some Config.exitNoVector.status
  | .errored _ => none
  | .keyInputEnded => none

/-- What the host process writes of its own after a run that ended, where a parameter names it: the output half of
`EXIT_NO_VECTOR` (D13). What a host prints after any other end is the host's alone (R173, R504). -/
def exitOutput : Fault → Option Bytes
  | .brokeWithoutVector => some Config.exitNoVector.output
  | .halted _ => none
  | .errored _ => none
  | .keyInputEnded => none

/-- The 256 bytes of a page in order. -/
def Page.bytes (p : Page) : Bytes := (List.range 256).map fun i => p.get (BitVec.ofNat 8 i)

/-- What a call of the core writes to standard output (R390). -/
def HostCall.onStdout : HostCall → Bytes
  | .stdout b => [b]
  | _ => []

/-- What a call of the core writes to standard error, a debug view in `DEBUG_FORMAT` (R385, R391). -/
def HostCall.onStderr : HostCall → Bytes
  | .stderr b => [b]
  | .debugView wst rst => Config.debugFormat wst.bytes rst.bytes
  | _ => []

/-- The bytes on standard output so far, in order (R505). -/
def State.stdout (s : State) : Bytes := s.outside.calls.flatMap HostCall.onStdout

/-- The bytes on standard error so far, in order (R505). -/
def State.stderr (s : State) : Bytes := s.outside.calls.flatMap HostCall.onStderr

end Sys2Proof.Machine
end

