-- ==== Sys2Proof/Machine/Step.lean ====
section
/-!
DEFINITION. The step of the machine, and the placing of one instruction where the next step fetches it.
-/

namespace Sys2Proof.Machine

/-- One step of the machine (R160, R168, R502). -/
def step (s : State) : Host.Outcome State Fault Refusal := runStep s

/-- The state with the instruction of `nbits` bits `w` stored at pc, and its run going on, so that the very next
step is the tick that runs it. -/
def State.withFetchWord (s : State) (nbits w : Nat) : State :=
  { s with
    mem := s.mem.writeBytes s.pc (tableBytes nbits w)
    event := none }

end Sys2Proof.Machine
end

