-- ==== Sys2Proof/Safety.lean ====
section
/-!
DEFINITION. The terms the statements are made in: the contents of a stack as a list of bytes (R13, R35), what an
instruction leaves on its source stack, how many bytes each base operation pops and pushes, and the invariant of
every state between two steps.
-/

namespace Sys2Proof

/-- The base operation of an instruction, `none` for BRK, the no-ops and the LIT forms (R129). -/
def Instr.base (i : Instr) : Option Base := Base.ofBits (i.opcode.extractLsb' 0 5)

/-- The bytes of a value of a width, high byte first, as they lie on a stack from the bottom up (R45, R88). -/
def valueBytes : (w : Width) → BitVec w.bits → List Byte
  | .byte, v => [v]
  | .short, v => [hiByte v, loByte v]

namespace Machine

/-! ## Stack pictures -/

/-- The bytes on a stack, bottom to top: `page[0]` to `page[ptr - 1]` (R13, R35). -/
def Stack.items (st : Stack) : List Byte :=
  (List.range st.ptr.toNat).map fun k => st.page.get (BitVec.ofNat 8 k)

/-- `st'` holds the bytes `xs`, and every byte of its page at and above its pointer, the error byte among them, is
as in `st` (R53). With `xs` this fixes the whole page. -/
def Stack.HoldsOver (st' : Stack) (xs : List Byte) (st : Stack) : Prop :=
  st'.items = xs ∧ ∀ k : Byte, st'.ptr ≤ k → k ≠ 255 → st'.page.get k = st.page.get k

/-- Operands that keep mode leaves on the source stack and that are gone without it (R55). -/
def kept (m : Mode) (operands : List Byte) : List Byte := if m.keep then operands else []

/-- The instruction completes: it answers the state `base` with the bytes `xs` on stack `S` and, as at the end of
every instruction, both keep pointers clear (R166, D3). Where `base` is `s`, nothing else has changed. -/
def Completes (i : Instr) (s : State) (S : StackId) (xs : List Byte) (base : State) : Prop :=
  ∃ st : Stack, exec i s = .next (closeKeep (base.setStack S st)) ∧ st.HoldsOver xs (s.stack S)

/-- The stack picture [operands] -> [result] of an instruction in a mode (R13): from every state whose source stack
ends in the operands, wherever the bytes that are left fit in the 254 of a page, the instruction completes with the
result on top of what keep mode leaves of the operands, and nothing else of the state changes. -/
def Turns (i : Instr) (m : Mode) (operands result : List Byte) : Prop :=
  ∀ (s : State) (l : List Byte), (s.stack (srcOf m)).items = l ++ operands →
    (l ++ kept m operands ++ result).length ≤ 254 →
    Completes i s (srcOf m) (l ++ kept m operands ++ result) s

/-- The bytes of memory from `a` on that a value of a width occupies (R81). -/
def memoryBytes (s : State) (a : Word) (w : Width) : List Byte := s.mem.readBytes a w.bytes

/-- Memory `mem` holds the bytes of `v` from `a` on, and reads as `old` at every other address (R82). -/
def StoredAt (mem old : Memory) (a : Word) (w : Width) (v : BitVec w.bits) : Prop :=
  mem.readBytes a w.bytes = valueBytes w v ∧
  ∀ x : Word, (∀ k < w.bytes, x ≠ a + BitVec.ofNat 16 k) → mem.read x = old.read x

/-! ## What each base operation pops and pushes -/

/-- How many bytes a base operation pops from its source stack at a width (the rules R203 to R347). -/
def operandBytes (w : Width) : Base → Nat
  | .inc | .pop | .dup | .jmp | .jsr | .sth => w.bytes
  | .nip | .swp | .ovr | .equ | .neq | .gth | .lth => 2 * w.bytes
  | .add | .sub | .mul | .div | .and | .ora | .eor => 2 * w.bytes
  | .rot => 3 * w.bytes
  | .jcn | .stz | .str | .deo | .sft => 1 + w.bytes
  | .ldz | .ldr | .dei => 1
  | .lda => 2
  | .sta => 2 + w.bytes

/-- How many bytes a base operation pushes onto its source stack at a width (the rules R203 to R347). -/
def resultBytes (w : Width) : Base → Nat
  | .inc | .nip | .ldz | .ldr | .lda | .dei => w.bytes
  | .add | .sub | .mul | .div | .and | .ora | .eor | .sft => w.bytes
  | .swp | .dup => 2 * w.bytes
  | .rot | .ovr => 3 * w.bytes
  | .equ | .neq | .gth | .lth => 1
  | .pop | .jmp | .jcn | .jsr | .sth | .stz | .str | .sta | .deo => 0

/-! ## Ports without an action -/

/-- The local indices of a file slot whose write fires a trigger (R432). -/
def fileTriggerIndex (index : BitVec 4) : Bool :=
  index = 0x4 || index = 0x6 || index = 0x8 || index = 0xC || index = 0xE

/-- A write to the port fires no action: it is none of 0x0E, 0x0F, 0x18, 0x19 and the file triggers (R384, R401). -/
def quietPort (p : Byte) : Bool :=
  !(p = 0x0E || p = 0x0F || p = 0x18 || p = 0x19 ||
    ((slotOf p = 0xA || slotOf p = 0xB) && fileTriggerIndex (localOf p)))

/-! ## Successive reads of a file -/

/-- The chunks that Read triggers with these lengths copy one after the other from a file buffer (R442). -/
def successiveChunks (bytes : Bytes) : List Nat → (cursor : Nat) → List Bytes
  | [], _ => []
  | length :: rest, cursor =>
    fileChunk length bytes cursor :: successiveChunks bytes rest (cursor + (fileChunk length bytes cursor).length)

/-! ## What a trigger of a file device leaves -/

/-- The result port of file device `i` holds `n` in `t`, and every other port is as in `s` (R434). -/
def ResultIs (i : FileId) (n : Nat) (s t : State) : Prop :=
  (t.port.get (i.base + 0x02)).toNat * 256 + (t.port.get (i.base + 0x03)).toNat = n ∧
  ∀ q : Byte, q ≠ i.base + 0x02 → q ≠ i.base + 0x03 → t.port.get q = s.port.get q

/-- `t` is `s` after a transfer of file device `i`: the device is in state `f`, the host side is `o`, memory holds
`bytes` from the target address of `s` on and reads as in `s` at every other address, the result port holds their
number, and nothing else has changed. -/
structure Transferred (i : FileId) (f : FileState) (bytes : Bytes) (o : Outside) (s t : State) : Prop where
  rest   : t = { s.setFd i f with mem := t.mem, port := t.port, outside := o }
  copied : t.mem.readBytes (fileTarget i s) bytes.length = bytes
  frame  : ∀ x : Word, (∀ n < bytes.length, x ≠ fileTarget i s + BitVec.ofNat 16 n) → t.mem.read x = s.mem.read x
  result : ResultIs i bytes.length s t

/-! ## The invariant -/

/-- The run has not ended in an Error. -/
def NotErrored (s : State) : Prop := ∀ kind, s.event ≠ some (.error kind)

/-- What holds of every state between two steps: memory is canonical (R39), each stack pointer is in [0, 254]
(R35), the error bytes are 0x00 until a fault, and then one of them holds its code (R494, R550), both keep
pointers are clear unless a fault ended the tick (R36), a file cursor is within its bytes (R41), `WEEKDAY_MAP` is
injective (D17), no run ends in Halt(0x00) (R513) and none in Error(Unknown) (R493), and the monotonic clock has not
fallen below the anchor of a CustomFromInstant source (R397). -/
structure State.Inv (s : State) : Prop where
  memory     : s.mem.wf
  wstPointer : s.wst.ptr ≤ 254
  rstPointer : s.rst.ptr ≤ 254
  noError    : NotErrored s → s.wst.err = 0 ∧ s.rst.err = 0
  errorCode  : ∀ kind, s.event = some (.error kind) → s.wst.err = kind.code ∨ s.rst.err = kind.code
  keepsClear : NotErrored s → s.wst.keep = none ∧ s.rst.keep = none
  cursor0    : ∀ bytes cursor, s.fd0 = .readingFile bytes cursor → cursor ≤ bytes.length
  cursor1    : ∀ bytes cursor, s.fd1 = .readingFile bytes cursor → cursor ≤ bytes.length
  params     : s.params.wellFormed = true
  haltCode   : ∀ code, s.event = some (.halt code) → code ≠ 0
  noUnknown  : s.event ≠ some (.error .unknown)
  anchor     : ∀ baseline anchor, s.timeSource = .customFromInstant baseline anchor → anchor ≤ s.outside.monotonic

end Machine

end Sys2Proof
end

