-- ==== Sys2Proof/Certificates/Slice0/Obligations.lean ====
section
/-!
DEFINITION. The statements about the model, for the provers. Each docstring names the rules of spec/ it formalises.
A statement that names a decision D<n> of spec/92_eei_decisions.md rests on a choice of the spec's own, not of the
source. How the model holds the end of a run (`event`), the host's answers (`outside`) and the host's resumption is
the model's choice in every statement: log entries 1, 4 and 5.
-/

open Sys2Proof Sys2Proof.Machine

/-! ## Encoding -/

/-- Decoding the bytes of an instruction, with any bytes after them, gives that instruction and those bytes, for
every instruction and every value of an immediate (R120, R126, R128, R131, R134). -/
def Obligations.DecodeOfEncodeIsInstruction : Prop :=
  ∀ (i : Instr) (rest : List Byte), i.wellFormed = true → decode (encode i ++ rest) = .ok (i, rest)

/-- Whatever bytes decode are the bytes of the instruction they decode to: no two byte strings mean one instruction,
and no bit of an instruction is read twice or dropped (R128, R131). -/
def Obligations.DecodedBytesAreEncoding : Prop :=
  ∀ (bytes rest : List Byte) (i : Instr), decode bytes = .ok (i, rest) → encode i ++ rest = bytes

/-- The opcode byte of a base operation in a mode is `base | 0x20*s | 0x40*r | 0x80*k`, with the base operations
numbered 0x01 to 0x1F in the order of the opcode map; base 0x00 is BRK, the reserved no-ops and the LIT forms in the
eight combinations of the mode bits; so ADD2 is 0x38, ADDk 0x98 and DEO 0x17 (R129). -/
def Obligations.OpcodeByteIsBaseAndModeBits : Prop :=
  (∀ (n : Nat) (base : Base) (m : Mode),
    [Base.inc, .pop, .nip, .swp, .rot, .dup, .ovr, .equ, .neq, .gth, .lth, .jmp, .jcn, .jsr, .sth, .ldz, .stz,
      .ldr, .str, .lda, .sta, .dei, .deo, .add, .sub, .mul, .div, .and, .ora, .eor, .sft][n]? = some base →
    (Instr.form base m).opcode = BitVec.ofNat 8 (n + 1) ||| (if m.short then 0x20 else 0) |||
      (if m.ret then 0x40 else 0) ||| (if m.keep then 0x80 else 0)) ∧
  (∀ (b : Byte) (v : Word),
    Instr.brk.opcode = 0x00 ∧ Instr.nop20.opcode = 0x20 ∧ Instr.nop40.opcode = 0x40 ∧ Instr.nop60.opcode = 0x60 ∧
    (Instr.lit b).opcode = 0x80 ∧ (Instr.lit2 v).opcode = 0xA0 ∧ (Instr.litr b).opcode = 0xC0 ∧
    (Instr.lit2r v).opcode = 0xE0) ∧
  Instr.add2.opcode = 0x38 ∧ Instr.addk.opcode = 0x98 ∧ Instr.deo.opcode = 0x17

/-- Words written out from the spec's encoding decode to the instructions they stand for: ADD2 is 0x38, ADDk 0x98,
DEO 0x17, JMP2r 0x6C, SFT2kr 0xFF, BRK 0x00, NOP20 0x20, and LIT2 takes its immediate high byte first (R126, R129). -/
def Obligations.SampleWordsDecode : Prop :=
  decode [0x38] = .ok (.add2, []) ∧ decode [0x98] = .ok (.addk, []) ∧ decode [0x17] = .ok (.deo, []) ∧
  decode [0x6C] = .ok (.jmp2r, []) ∧ decode [0xFF] = .ok (.sft2kr, []) ∧ decode [0x00] = .ok (.brk, []) ∧
  decode [0x20] = .ok (.nop20, []) ∧ decode [0xA0, 0x12, 0x34] = .ok (.lit2 0x1234, [])

/-! ## Stack primitives and faults -/

/-- push8: at pointer 254 it raises Overflow; below, it writes the byte at the real pointer, adds 1 to the real
pointer, and changes no other byte and no keep pointer, whether or not one is set (R44). -/
def Obligations.PushByteWritesAtRealPointer : Prop :=
  ∀ (S : StackId) (b : Byte) (s : State),
    ((s.stack S).ptr = 254 → ∀ next, push8 S b s next = .next (raiseFault .overflow S s)) ∧
    ((s.stack S).ptr < 254 → ∃ st : Stack, (∀ next, push8 S b s next = next (s.setStack S st)) ∧
      st.page.get (s.stack S).ptr = b ∧ st.ptr.toNat = (s.stack S).ptr.toNat + 1 ∧ st.keep = (s.stack S).keep ∧
      ∀ k : Byte, k ≠ (s.stack S).ptr → k ≠ 255 → st.page.get k = (s.stack S).page.get k)

/-- push16: it raises Overflow where the pointer plus 2 passes 254, computed without wrap; else it writes the two
bytes big-endian at the real pointer, adds 2, and changes no other byte and no keep pointer (R45). -/
def Obligations.PushShortWritesBigEndian : Prop :=
  ∀ (S : StackId) (v : Word) (s : State),
    ((s.stack S).ptr.toNat + 2 > 254 → ∀ next, push16 S v s next = .next (raiseFault .overflow S s)) ∧
    ((s.stack S).ptr.toNat + 2 ≤ 254 → ∃ st : Stack, (∀ next, push16 S v s next = next (s.setStack S st)) ∧
      (st.page.get (s.stack S).ptr).toNat = v.toNat / 256 ∧
      (st.page.get ((s.stack S).ptr + 1)).toNat = v.toNat % 256 ∧
      st.ptr.toNat = (s.stack S).ptr.toNat + 2 ∧ st.keep = (s.stack S).keep ∧
      ∀ k : Byte, k ≠ (s.stack S).ptr → k ≠ (s.stack S).ptr + 1 → k ≠ 255 →
        st.page.get k = (s.stack S).page.get k)

/-- pop8: where the active pointer (the keep pointer if set, else the real pointer) is 0 it raises Underflow; else it
lowers that pointer by 1, returns the byte now at it, and changes nothing else (R46). -/
def Obligations.PopByteLowersActivePointer : Prop :=
  ∀ (S : StackId) (s : State),
    (∀ k : Byte, (s.stack S).keep = some k →
      (k = 0 → ∀ next, pop8 S s next = .next (raiseFault .underflow S s)) ∧
      (k ≠ 0 → ∀ next, pop8 S s next = next ((s.stack S).page.get (k - 1))
        (s.setStack S { s.stack S with keep := some (k - 1) }))) ∧
    ((s.stack S).keep = none →
      ((s.stack S).ptr = 0 → ∀ next, pop8 S s next = .next (raiseFault .underflow S s)) ∧
      ((s.stack S).ptr ≠ 0 → ∃ st : Stack,
        (∀ next, pop8 S s next = next ((s.stack S).page.get ((s.stack S).ptr - 1)) (s.setStack S st)) ∧
        st.ptr = (s.stack S).ptr - 1 ∧ st.keep = none ∧
        ∀ k : Byte, k ≠ 255 → st.page.get k = (s.stack S).page.get k))

/-- pop16: where the active pointer is below 2 it raises Underflow and moves no pointer; else it lowers that pointer by
2, returns the big-endian value of the two bytes now at it, and changes nothing else (R47). -/
def Obligations.PopShortReadsBigEndian : Prop :=
  ∀ (S : StackId) (s : State),
    (∀ k : Byte, (s.stack S).keep = some k →
      (k.toNat < 2 → ∀ next, pop16 S s next = .next (raiseFault .underflow S s)) ∧
      (2 ≤ k.toNat → ∃ v : Word,
        v.toNat = ((s.stack S).page.get (k - 2)).toNat * 256 + ((s.stack S).page.get (k - 1)).toNat ∧
        ∀ next, pop16 S s next = next v (s.setStack S { s.stack S with keep := some (k - 2) }))) ∧
    ((s.stack S).keep = none →
      ((s.stack S).ptr.toNat < 2 → ∀ next, pop16 S s next = .next (raiseFault .underflow S s)) ∧
      (2 ≤ (s.stack S).ptr.toNat → ∃ (v : Word) (st : Stack),
        v.toNat = ((s.stack S).page.get ((s.stack S).ptr - 2)).toNat * 256 +
          ((s.stack S).page.get ((s.stack S).ptr - 1)).toNat ∧
        (∀ next, pop16 S s next = next v (s.setStack S st)) ∧
        st.ptr = (s.stack S).ptr - 2 ∧ st.keep = none ∧
        ∀ k : Byte, k ≠ 255 → st.page.get k = (s.stack S).page.get k))

/-- A value pushed and then popped is itself, and the stack holds what it held (the source's round-trip property, from
R45 and R47). -/
def Obligations.PushThenPopIsRoundTrip : Prop :=
  ∀ (S : StackId) (w : Width) (v : BitVec w.bits) (s : State), (s.stack S).keep = none →
    (s.stack S).ptr.toNat + w.bytes ≤ 254 →
    ∃ st : Stack, (∀ next, push S w v s (fun t => pop S w t next) = next v (s.setStack S st)) ∧
      st.items = (s.stack S).items ∧ st.keep = none ∧ st.err = (s.stack S).err

/-- A fault writes the code of its kind (Underflow 0x01, Overflow 0x02, DivisionByZero 0x03, Unknown 0xFF) to byte 254
of the stack it is raised on, changes no other byte of the page and no pointer, ends the tick with Error(kind), and
leaves the other stack and all other state as it was; the byte names its kind back, 0x00 no fault, and 0x04 to 0xFF
Unknown (R52, R490, R492, R494, D32). -/
def Obligations.FaultRecordsOnlyItsCode : Prop :=
  FaultKind.underflow.code = 0x01 ∧ FaultKind.overflow.code = 0x02 ∧ FaultKind.divisionByZero.code = 0x03 ∧
  FaultKind.unknown.code = 0xFF ∧
  (∀ kind : FaultKind, FaultKind.ofErrorByte kind.code = some kind) ∧ FaultKind.ofErrorByte 0x00 = none ∧
  (∀ b : Byte, 0x04 ≤ b → FaultKind.ofErrorByte b = some .unknown) ∧
  ∀ (kind : FaultKind) (S : StackId) (s : State), ∃ st : Stack,
    raiseFault kind S s = { s.setStack S st with event := some (.error kind) } ∧
    st.err = kind.code ∧ st.ptr = (s.stack S).ptr ∧ st.keep = (s.stack S).keep ∧
    ∀ k : Byte, k ≠ 254 → st.page.get k = (s.stack S).page.get k

/-! ## BRK, the no-ops and LIT -/

/-- A tick that finds 0x00 at pc ends in Break and changes nothing else, pc included; so does BRK itself; no other
instruction ends a run in Break (R125, R172, R200). -/
def Obligations.BrkBreaksAndKeepsPc : Prop :=
  (∀ s : State, exec .brk s = .next { s with event := some .brk }) ∧
  (∀ s : State, s.event = none → s.mem.read s.pc = 0x00 → step s = .next { s with event := some .brk }) ∧
  ∀ (i : Instr) (s t : State), s.event = none → exec i s = .next t → t.event = some .brk → i = .brk

/-- NOP20, NOP40 and NOP60 advance pc by 1 and change nothing else (but for the clearing of the keep pointers that ends
every instruction, D3): as instructions, and as ticks of the bytes 0x20, 0x40 and 0x60 (R127, R201). -/
def Obligations.ReservedNoOpsOnlyAdvancePc : Prop :=
  (∀ s : State, exec .nop20 s = .next (closeKeep s) ∧ exec .nop40 s = .next (closeKeep s) ∧
    exec .nop60 s = .next (closeKeep s)) ∧
  ∀ s : State, s.event = none → s.mem.read s.pc ∈ [(0x20 : Byte), 0x40, 0x60] →
    step s = .next (closeKeep { s with pc := s.pc + 1 })

/-- LIT and LIT2 push their immediate on the working stack, LITr and LIT2r on the return stack, high byte first, and
pc moves past the immediate (R126, R202). -/
def Obligations.LitPushesImmediate : Prop :=
  ∀ (s : State) (b : Byte) (v : Word),
    ((s.wst.items ++ [b]).length ≤ 254 →
      Completes (.lit b) s .wst (s.wst.items ++ [b]) { s with pc := s.pc + 1 }) ∧
    ((s.wst.items ++ [hiByte v, loByte v]).length ≤ 254 →
      Completes (.lit2 v) s .wst (s.wst.items ++ [hiByte v, loByte v]) { s with pc := s.pc + 2 }) ∧
    ((s.rst.items ++ [b]).length ≤ 254 →
      Completes (.litr b) s .rst (s.rst.items ++ [b]) { s with pc := s.pc + 1 }) ∧
    ((s.rst.items ++ [hiByte v, loByte v]).length ≤ 254 →
      Completes (.lit2r v) s .rst (s.rst.items ++ [hiByte v, loByte v]) { s with pc := s.pc + 2 })

/-- A LIT whose push does not fit faults with Overflow on its stack, pc already past the immediate (R202, D11). -/
def Obligations.LitOverflowLeavesPcPastImmediate : Prop :=
  ∀ (s : State) (b : Byte) (v : Word),
    (s.wst.ptr = 254 → ∃ t, exec (.lit b) s = .next t ∧ t.event = some (.error .overflow) ∧ t.wst.err = 0x02 ∧
      t.wst.items = s.wst.items ∧ t.pc = s.pc + 1 ∧ t.rst = s.rst ∧ t.mem = s.mem ∧ t.port = s.port) ∧
    (s.rst.ptr = 254 → ∃ t, exec (.litr b) s = .next t ∧ t.event = some (.error .overflow) ∧ t.rst.err = 0x02 ∧
      t.rst.items = s.rst.items ∧ t.pc = s.pc + 1 ∧ t.wst = s.wst ∧ t.mem = s.mem ∧ t.port = s.port) ∧
    (s.wst.ptr = 253 ∨ s.wst.ptr = 254 → ∃ t, exec (.lit2 v) s = .next t ∧ t.event = some (.error .overflow) ∧
      t.wst.err = 0x02 ∧ t.wst.items = s.wst.items ∧ t.pc = s.pc + 2 ∧ t.rst = s.rst ∧ t.mem = s.mem ∧
      t.port = s.port) ∧
    (s.rst.ptr = 253 ∨ s.rst.ptr = 254 → ∃ t, exec (.lit2r v) s = .next t ∧ t.event = some (.error .overflow) ∧
      t.rst.err = 0x02 ∧ t.rst.items = s.rst.items ∧ t.pc = s.pc + 2 ∧ t.wst = s.wst ∧ t.mem = s.mem ∧
      t.port = s.port)

/-! ## The stack operations

`m` is any of the eight modes, so that each statement is about the eight instructions of its base operation. -/

/-- INC in all modes: [a] -> [a+1], reduced to the width; POP in all modes: [a] -> [] (R203, R204). -/
def Obligations.IncPushesSuccessorAndPopDiscards : Prop :=
  ∀ (m : Mode) (a : BitVec m.width.bits),
    Turns (.form .inc m) m (valueBytes _ a) (valueBytes _ (BitVec.ofNat m.width.bits (a.toNat + 1))) ∧
    Turns (.form .pop m) m (valueBytes _ a) []

/-- NIP, SWP and ROT in all modes: [b a] -> [a], [b a] -> [a b], [c b a] -> [b a c], the byte order within each value
kept (R205, R206, R207). -/
def Obligations.NipSwpRotRearrange : Prop :=
  ∀ (m : Mode) (c b a : BitVec m.width.bits),
    Turns (.form .nip m) m (valueBytes _ b ++ valueBytes _ a) (valueBytes _ a) ∧
    Turns (.form .swp m) m (valueBytes _ b ++ valueBytes _ a) (valueBytes _ a ++ valueBytes _ b) ∧
    Turns (.form .rot m) m (valueBytes _ c ++ valueBytes _ b ++ valueBytes _ a)
      (valueBytes _ b ++ valueBytes _ a ++ valueBytes _ c)

/-- DUP and OVR in all modes: [a] -> [a a], [b a] -> [b a b] (R208, R209). -/
def Obligations.DupAndOvrCopy : Prop :=
  ∀ (m : Mode) (b a : BitVec m.width.bits),
    Turns (.form .dup m) m (valueBytes _ a) (valueBytes _ a ++ valueBytes _ a) ∧
    Turns (.form .ovr m) m (valueBytes _ b ++ valueBytes _ a) (valueBytes _ b ++ valueBytes _ a ++ valueBytes _ b)

/-! ## Comparisons, jumps and stash -/

/-- EQU, NEQ, GTH and LTH in all modes: [b a] -> [01] where `b op a` holds of the unsigned values and [00] where it does
not, one byte in short mode too (R240 to R244). -/
def Obligations.ComparisonsPushOneBooleanByte : Prop :=
  ∀ (m : Mode) (b a : BitVec m.width.bits),
    Turns (.form .equ m) m (valueBytes _ b ++ valueBytes _ a) [if b.toNat = a.toNat then 0x01 else 0x00] ∧
    Turns (.form .neq m) m (valueBytes _ b ++ valueBytes _ a) [if b.toNat = a.toNat then 0x00 else 0x01] ∧
    Turns (.form .gth m) m (valueBytes _ b ++ valueBytes _ a) [if a.toNat < b.toNat then 0x01 else 0x00] ∧
    Turns (.form .lth m) m (valueBytes _ b ++ valueBytes _ a) [if b.toNat < a.toNat then 0x01 else 0x00]

/-- JMP in all modes: in byte mode pc moves by the signed 8-bit delta, modulo 2^16, from the address after the opcode
byte; in short mode pc is the absolute target; the target is popped and nothing else changes (R245). -/
def Obligations.JmpSetsPc : Prop :=
  ∀ (k r : Bool) (s : State) (l : List Byte) (d : Byte) (t : Word),
    ((s.stack (srcOf ⟨k, r, false⟩)).items = l ++ [d] →
      Completes (.form .jmp ⟨k, r, false⟩) s (srcOf ⟨k, r, false⟩) (l ++ kept ⟨k, r, false⟩ [d])
        { s with pc := BitVec.ofInt 16 (s.pc.toNat + d.toInt) }) ∧
    ((s.stack (srcOf ⟨k, r, true⟩)).items = l ++ [hiByte t, loByte t] →
      Completes (.form .jmp ⟨k, r, true⟩) s (srcOf ⟨k, r, true⟩) (l ++ kept ⟨k, r, true⟩ [hiByte t, loByte t])
        { s with pc := t })

/-- JCN in all modes: the condition byte is on top of the target; both are popped; pc is the target where the condition
is not 0x00 and stays where it is (R246, D5). -/
def Obligations.JcnJumpsOnNonzeroCondition : Prop :=
  ∀ (k r : Bool) (s : State) (l : List Byte) (c d : Byte) (t : Word),
    ((s.stack (srcOf ⟨k, r, false⟩)).items = l ++ [d, c] →
      Completes (.form .jcn ⟨k, r, false⟩) s (srcOf ⟨k, r, false⟩) (l ++ kept ⟨k, r, false⟩ [d, c])
        { s with pc := if c = 0 then s.pc else BitVec.ofInt 16 (s.pc.toNat + d.toInt) }) ∧
    ((s.stack (srcOf ⟨k, r, true⟩)).items = l ++ [hiByte t, loByte t, c] →
      Completes (.form .jcn ⟨k, r, true⟩) s (srcOf ⟨k, r, true⟩)
        (l ++ kept ⟨k, r, true⟩ [hiByte t, loByte t, c]) { s with pc := if c = 0 then s.pc else t })

/-- JSR in all modes: the address after the opcode byte goes onto the destination stack as a short, the target leaves
the source stack, and pc is the target as for JMP (R247, D6). -/
def Obligations.JsrPushesReturnAddress : Prop :=
  ∀ (m : Mode) (s : State) (l : List Byte) (t : BitVec m.width.bits),
    (s.stack (srcOf m)).items = l ++ valueBytes _ t → (s.stack (dstOf m)).items.length + 2 ≤ 254 →
    ∃ src dst : Stack,
      exec (.form .jsr m) s = .next (closeKeep { (s.setStack (srcOf m) src).setStack (dstOf m) dst with
        pc := if m.short then t.setWidth 16 else BitVec.ofInt 16 (s.pc.toNat + (t.setWidth 8).toInt) }) ∧
      src.HoldsOver (l ++ kept m (valueBytes _ t)) (s.stack (srcOf m)) ∧
      dst.HoldsOver ((s.stack (dstOf m)).items ++ [hiByte s.pc, loByte s.pc]) (s.stack (dstOf m))

/-- JSR with no room on its destination stack ends in Error(Overflow) there before it pops anything, its target missing
or not; with room and without its target it ends in Error(Underflow) on its source stack, the return address already
pushed. STH with its value and no room on the destination stack ends in Error(Overflow) there, the value already
popped (R171, R247, R248, R500, D1, D6). -/
def Obligations.JsrAndSthFaultInStatementOrder : Prop :=
  ∀ (m : Mode) (s : State) (l : List Byte) (a : BitVec m.width.bits),
    ((s.stack (dstOf m)).ptr = 253 ∨ (s.stack (dstOf m)).ptr = 254 →
      ∃ src dst : Stack,
        exec (.form .jsr m) s = .next { (s.setStack (srcOf m) src).setStack (dstOf m) dst with
          event := some (.error .overflow) } ∧
        dst.err = 0x02 ∧ dst.items = (s.stack (dstOf m)).items ∧ src.page = (s.stack (srcOf m)).page) ∧
    ((s.stack (srcOf m)).ptr.toNat < m.width.bytes → (s.stack (dstOf m)).items.length + 2 ≤ 254 →
      ∃ src dst : Stack,
        exec (.form .jsr m) s = .next { (s.setStack (srcOf m) src).setStack (dstOf m) dst with
          event := some (.error .underflow) } ∧
        src.err = 0x01 ∧ src.items = (s.stack (srcOf m)).items ∧
        dst.HoldsOver ((s.stack (dstOf m)).items ++ [hiByte s.pc, loByte s.pc]) (s.stack (dstOf m))) ∧
    ((s.stack (srcOf m)).items = l ++ valueBytes _ a → (s.stack (dstOf m)).ptr.toNat ≤ 254 →
      254 < (s.stack (dstOf m)).ptr.toNat + m.width.bytes →
      ∃ src dst : Stack,
        exec (.form .sth m) s = .next { (s.setStack (srcOf m) src).setStack (dstOf m) dst with
          event := some (.error .overflow) } ∧
        dst.err = 0x02 ∧ dst.items = (s.stack (dstOf m)).items ∧
        src.HoldsOver (l ++ kept m (valueBytes _ a)) (s.stack (srcOf m)))

/-- STH in all modes: a value leaves the source stack and goes onto the destination stack (R248). -/
def Obligations.SthMovesValueToOtherStack : Prop :=
  ∀ (m : Mode) (s : State) (l : List Byte) (a : BitVec m.width.bits),
    (s.stack (srcOf m)).items = l ++ valueBytes _ a →
    ((s.stack (dstOf m)).items ++ valueBytes _ a).length ≤ 254 →
    ∃ src dst : Stack,
      exec (.form .sth m) s = .next (closeKeep ((s.setStack (srcOf m) src).setStack (dstOf m) dst)) ∧
      src.HoldsOver (l ++ kept m (valueBytes _ a)) (s.stack (srcOf m)) ∧
      dst.HoldsOver ((s.stack (dstOf m)).items ++ valueBytes _ a) (s.stack (dstOf m))

/-! ## Loads and stores -/

/-- LDZ, LDR and LDA in all modes push the one or two bytes of memory at their address, big-endian: the zero-extended
byte, pc plus the signed delta modulo 2^16, or the absolute short; the second byte's address wraps modulo 2^16, and
memory does not change (R87, R92, R280, R282, R284, D10). -/
def Obligations.LoadsPushMemoryBytes : Prop :=
  ∀ (m : Mode) (s : State) (l : List Byte) (b : Byte) (a : Word),
    ((s.stack (srcOf m)).items = l ++ [b] →
      (l ++ kept m [b] ++ memoryBytes s (BitVec.ofNat 16 b.toNat) m.width).length ≤ 254 →
      Completes (.form .ldz m) s (srcOf m) (l ++ kept m [b] ++ memoryBytes s (BitVec.ofNat 16 b.toNat) m.width) s) ∧
    ((s.stack (srcOf m)).items = l ++ [b] →
      (l ++ kept m [b] ++ memoryBytes s (BitVec.ofInt 16 (s.pc.toNat + b.toInt)) m.width).length ≤ 254 →
      Completes (.form .ldr m) s (srcOf m)
        (l ++ kept m [b] ++ memoryBytes s (BitVec.ofInt 16 (s.pc.toNat + b.toInt)) m.width) s) ∧
    ((s.stack (srcOf m)).items = l ++ [hiByte a, loByte a] →
      (l ++ kept m [hiByte a, loByte a] ++ memoryBytes s a m.width).length ≤ 254 →
      Completes (.form .lda m) s (srcOf m) (l ++ kept m [hiByte a, loByte a] ++ memoryBytes s a m.width) s)

/-- STZ, STR and STA in all modes: the address is on top of the value; the value's one or two bytes are written at the
address, high byte first; every other byte of memory reads as before, and nothing else changes but the popped
operands (R281, R283, R285, R82, D4). The premise on memory is the canonical form that every step keeps. -/
def Obligations.StoresWriteOnlyTheirBytes : Prop :=
  ∀ (m : Mode) (s : State) (l : List Byte) (b : Byte) (a : Word) (v : BitVec m.width.bits), s.mem.wf →
    ((s.stack (srcOf m)).items = l ++ valueBytes _ v ++ [b] →
      ∃ mem, StoredAt mem s.mem (zeroPageAddress b) m.width v ∧
        Completes (.form .stz m) s (srcOf m) (l ++ kept m (valueBytes _ v ++ [b])) { s with mem := mem }) ∧
    ((s.stack (srcOf m)).items = l ++ valueBytes _ v ++ [b] →
      ∃ mem, StoredAt mem s.mem (relativeAddress s.pc b) m.width v ∧
        Completes (.form .str m) s (srcOf m) (l ++ kept m (valueBytes _ v ++ [b])) { s with mem := mem }) ∧
    ((s.stack (srcOf m)).items = l ++ valueBytes _ v ++ [hiByte a, loByte a] →
      ∃ mem, StoredAt mem s.mem a m.width v ∧
        Completes (.form .sta m) s (srcOf m) (l ++ kept m (valueBytes _ v ++ [hiByte a, loByte a]))
          { s with mem := mem })

/-! ## Arithmetic, logic and shift -/

/-- ADD, SUB and MUL in all modes: [b a] -> [b+a], [b-a], [b*a], each modulo 2^w (R340, R341, R342, R348). -/
def Obligations.ArithmeticWraps : Prop :=
  ∀ (m : Mode) (b a : BitVec m.width.bits),
    Turns (.form .add m) m (valueBytes _ b ++ valueBytes _ a)
      (valueBytes _ (BitVec.ofNat m.width.bits (b.toNat + a.toNat))) ∧
    Turns (.form .sub m) m (valueBytes _ b ++ valueBytes _ a)
      (valueBytes _ (BitVec.ofInt m.width.bits ((b.toNat : Int) - a.toNat))) ∧
    Turns (.form .mul m) m (valueBytes _ b ++ valueBytes _ a)
      (valueBytes _ (BitVec.ofNat m.width.bits (b.toNat * a.toNat)))

/-- DIV in all modes with a nonzero divisor a on top: [b a] -> [b / a], unsigned and truncating (R343, R348). -/
def Obligations.DivTruncates : Prop :=
  ∀ (m : Mode) (b a : BitVec m.width.bits), a.toNat ≠ 0 →
    Turns (.form .div m) m (valueBytes _ b ++ valueBytes _ a)
      (valueBytes _ (BitVec.ofNat m.width.bits (b.toNat / a.toNat)))

/-- DIV by zero in all modes ends in Error(DivisionByZero) with 0x03 in the error byte of the source stack; both
operands have been popped through the active pointer, and nothing else changes (R343, R51, D7). -/
def Obligations.DivByZeroFaults : Prop :=
  ∀ (m : Mode) (s : State) (l : List Byte) (b : BitVec m.width.bits),
    (s.stack (srcOf m)).items = l ++ valueBytes _ b ++ valueBytes m.width 0 →
    (s.stack (srcOf m)).ptr ≤ 254 →
    ∃ st : Stack,
      exec (.form .div m) s = .next { s.setStack (srcOf m) st with event := some (.error .divisionByZero) } ∧
      st.err = 0x03 ∧ st.items = l ++ kept m (valueBytes _ b ++ valueBytes m.width 0) ∧
      ∀ k : Byte, k ≠ 254 → k ≠ 255 → st.page.get k = (s.stack (srcOf m)).page.get k

/-- AND, ORA and EOR in all modes: [b a] -> the bitwise and, or and exclusive or of b and a, bit by bit over the whole
width (R344, R345, R346). -/
def Obligations.LogicIsBitwise : Prop :=
  ∀ (m : Mode) (b a : BitVec m.width.bits), ∃ x y z : BitVec m.width.bits,
    Turns (.form .and m) m (valueBytes _ b ++ valueBytes _ a) (valueBytes _ x) ∧
    Turns (.form .ora m) m (valueBytes _ b ++ valueBytes _ a) (valueBytes _ y) ∧
    Turns (.form .eor m) m (valueBytes _ b ++ valueBytes _ a) (valueBytes _ z) ∧
    ∀ n : Nat, x.getLsbD n = (b.getLsbD n && a.getLsbD n) ∧ y.getLsbD n = (b.getLsbD n || a.getLsbD n) ∧
      z.getLsbD n = (b.getLsbD n != a.getLsbD n)

/-- SFT in all modes: [v c] -> v shifted right by the low nibble of c with zero fill, then left by its high nibble and
cut to the width; an amount of the width or more gives 0 (R347). -/
def Obligations.SftShiftsRightThenLeft : Prop :=
  ∀ (m : Mode) (v : BitVec m.width.bits) (c : Byte),
    Turns (.form .sft m) m (valueBytes _ v ++ [c])
      (valueBytes _ (BitVec.ofNat m.width.bits ((v.toNat / 2 ^ (c.toNat % 16)) * 2 ^ (c.toNat / 16))))

/-! ## Faults and keep mode, over all instructions -/

/-- Every base operation but JSR, in every mode, with fewer bytes on its source stack than it pops, ends in
Error(Underflow) with 0x01 in the error byte of the source stack; no byte of the stack but the pointer and the error
byte, and nothing of the other stack, pc, memory, the ports, the devices and the host, has changed
(R171, R491, R492, D1). -/
def Obligations.MissingOperandsUnderflow : Prop :=
  ∀ (base : Base) (m : Mode) (s : State), base ≠ .jsr →
    (s.stack (srcOf m)).ptr.toNat < operandBytes m.width base →
    ∃ st : Stack,
      exec (.form base m) s = .next { s.setStack (srcOf m) st with event := some (.error .underflow) } ∧
      st.err = 0x01 ∧ st.ptr ≤ (s.stack (srcOf m)).ptr ∧
      ∀ k : Byte, k ≠ 254 → k ≠ 255 → st.page.get k = (s.stack (srcOf m)).page.get k

/-- Every base operation, in every mode, whose operands are there but whose results do not fit on its source stack ends
in Error(Overflow) with 0x02 in the error byte of that stack; the other stack, pc, memory, the ports and the file
devices are as before (R44, R45, R491). DIV has a nonzero divisor; JSR and STH, which push onto the other stack, have
their own statement. -/
def Obligations.ResultsWithoutRoomOverflow : Prop :=
  ∀ (base : Base) (m : Mode) (s : State), base ∉ [Base.jsr, .sth] →
    (s.stack (srcOf m)).ptr.toNat ≤ 254 →
    operandBytes m.width base ≤ (s.stack (srcOf m)).ptr.toNat →
    (base = .div → ∃ (l : List Byte) (b a : BitVec m.width.bits), a.toNat ≠ 0 ∧
      (s.stack (srcOf m)).items = l ++ valueBytes _ b ++ valueBytes _ a) →
    254 < (s.stack (srcOf m)).ptr.toNat - (if m.keep then 0 else operandBytes m.width base) +
      resultBytes m.width base →
    ∃ t, exec (.form base m) s = .next t ∧ t.event = some (.error .overflow) ∧
      (t.stack (srcOf m)).err = 0x02 ∧ (t.stack (srcOf m)).ptr ≤ 254 ∧
      t.stack (dstOf m) = s.stack (dstOf m) ∧ t.pc = s.pc ∧ t.mem = s.mem ∧ t.port = s.port ∧
      t.fd0 = s.fd0 ∧ t.fd1 = s.fd1

/-- An instruction in keep mode that does not end in an Error leaves every byte of its source stack in place: what it
pushes lies on top of all that was there, as many bytes as its rule pushes (R55, R122). -/
def Obligations.KeepModeLeavesSourceInPlace : Prop :=
  ∀ (base : Base) (m : Mode) (s t : State), m.keep = true → (s.stack (srcOf m)).ptr ≤ 254 → NotErrored s →
    exec (.form base m) s = .next t → NotErrored t →
    ∃ pushed : List Byte, (t.stack (srcOf m)).items = (s.stack (srcOf m)).items ++ pushed ∧
      pushed.length = resultBytes m.width base

/-- A fault of any instruction leaves pc where the fetch left it, past the immediate for the LIT forms, so that the
address of the faulting instruction can be recovered from pc (R495). -/
def Obligations.FaultLeavesPcPastInstruction : Prop :=
  ∀ (i : Instr) (s t : State), s.event = none → exec i s = .next t → ¬ NotErrored t →
    t.pc = s.pc + BitVec.ofNat 16 (i.length - 1)

/-! ## Frames over all instructions -/

/-- Only STZ, STR, STA and DEO write memory; only DEO writes a port or changes a file device; only DEI and DEO reach
the host; only LIT, JMP, JCN and JSR change pc (R80, R94, R161, R310, R311). -/
def Obligations.EachKindOfStateHasItsWriters : Prop :=
  ∀ (i : Instr) (s t : State), exec i s = .next t →
    (i.base ∉ [some Base.stz, some .str, some .sta, some .deo] → t.mem = s.mem) ∧
    (i.base ≠ some .deo → t.port = s.port ∧ t.fd0 = s.fd0 ∧ t.fd1 = s.fd1) ∧
    (i.base ∉ [some Base.dei, some .deo] → t.outside = s.outside) ∧
    (i.base ∉ [some Base.jmp, some .jcn, some .jsr] → i.immediate = [] → t.pc = s.pc)

/-- The parameters and the datetime source never change, and only a DEO ends a run in Halt (R42, R169, R513). -/
def Obligations.ParametersNeverChangeAndOnlyDeoHalts : Prop :=
  (∀ s t : State, step s = .next t → t.params = s.params ∧ t.timeSource = s.timeSource) ∧
  ∀ (i : Instr) (s t : State) (code : Byte), s.event = none → exec i s = .next t → t.event = some (.halt code) →
    i.base = some .deo ∧ t.port.get 0x0F = code ∧ code ≠ 0

/-! ## The device bus -/

/-- DEI in all modes, of ports outside the datetime slot: pushes the stored byte of port p, in short mode those of p and
p + 1 (modulo 2^8), and changes nothing else (R310, R381, D9). -/
def Obligations.DeiPushesStoredPorts : Prop :=
  ∀ (m : Mode) (s : State) (l : List Byte) (p : Byte),
    (s.stack (srcOf m)).items = l ++ [p] → slotOf p ≠ 0xC → (m.short = true → slotOf (p + 1) ≠ 0xC) →
    (l ++ kept m [p] ++ s.port.get p :: (if m.short then [s.port.get (p + 1)] else [])).length ≤ 254 →
    Completes (.form .dei m) s (srcOf m)
      (l ++ kept m [p] ++ s.port.get p :: (if m.short then [s.port.get (p + 1)] else [])) s

/-- DEI in all modes, of any port: pushes the input of port p and, in short mode, then that of p + 1 (modulo 2^8), each
input one after the other; nothing changes but the stack and what the input itself changes. The input of a port 0xC0 to
0xCA is one query of the clock, whose answer is the oldest the host has ready, or else a free one: where it is a
reading, the input is the field of the reading that the source gives (local time with its DST, UTC without DST, a
static instant whatever the answer, the baseline plus the seconds since the anchor for a custom source), 1 or 0 for
DST; where it is a failure, the field of the epoch, or of a static instant. The input of a port 0xCB to 0xCF is a byte
that the host supplies. Nothing but the host side changes (R310, R381, R393, R394, R395, R397, D9, D16, D18, D19). The
model's choices: a static source consumes an answer too and cannot fail, and the calendar of the custom source is
opaque (log entry 20); how the monotonic clock advances (log entry 21); that a static instant and that calendar may
show DST (log entry 42). -/
def Obligations.DeiReadsItsPortsInOrderAndTheClock : Prop :=
  (∀ (m : Mode) (s : State) (l : List Byte) (p : Byte), (s.stack (srcOf m)).items = l ++ [p] →
    (l ++ kept m [p]).length + m.width.bytes ≤ 254 →
    if m.short then
      Completes (.form .dei m) s (srcOf m)
        (l ++ kept m [p] ++ [(devIn p s).1, (devIn (p + 1) (devIn p s).2).1]) (devIn (p + 1) (devIn p s).2).2
    else Completes (.form .dei m) s (srcOf m) (l ++ kept m [p] ++ [(devIn p s).1]) (devIn p s).2) ∧
  (∀ (s : State) (index : BitVec 4) (answered : ClockAnswer),
    index ≤ 0xA → answer s.outside.clocks Config.clockAnswer s.outside.draws = answered →
    ∃ shown : ClockReading,
      (∀ instant, s.timeSource = .staticInstant instant → shown = instant) ∧
      (answered = .failure → (∀ instant, s.timeSource ≠ .staticInstant instant) → shown = epochReading) ∧
      (∀ reading advance, answered = .time reading advance →
        (s.timeSource = .localTime → shown = reading) ∧ (s.timeSource = .utc → shown = { reading with dst := false }) ∧
        (∀ baseline anchor, s.timeSource = .customFromInstant baseline anchor →
          shown = Config.calendar (baseline + (((s.outside.monotonic + advance : Nat) : Int) - anchor)))) ∧
      devIn (0xC#4 ++ index) s = (clockField s.params shown index, { s with outside :=
        { s.outside with
          clocks := s.outside.clocks.tail
          draws := s.outside.draws + 1
          monotonic := s.outside.monotonic + clockAdvance answered
          calls := s.outside.calls ++ [.clock index] } })) ∧
  ∀ (s : State) (index : BitVec 4), 0xA < index → ∃ (b : Byte) (o : Outside),
    devIn (0xC#4 ++ index) s = (b, { s with outside := o }) ∧ o.calls = s.outside.calls ++ [.clock index] ∧
    ∀ (given : Byte) (later : List Byte), s.outside.dtUndefs = given :: later → b = given

/-- Each port 0xC0 to 0xCA shows its field of a reading, within the range of its table row: the year and the day of the
year, big-endian over two ports, the month 0 to 11, the day 1 to 31, the hour 0 to 23, the minute and the second 0 to
59, the byte that the weekday map holds for the weekday, no two weekdays with one byte, and DST 0 or 1. Where the host
fails to read its clock, a port 0xC0 to 0xCA of every source but a static one reads as that of 1970-01-01 00:00:00, a
Thursday, the first day of its year, DST 0: the bytes 0x07, 0xB2, 0, 1, 0, 0, 0, the byte of Thursday, 0, the base of
the day of the year, 0 (R381, R393, R394, D17; the calendar facts are GK3, log entry 40). The model's choice: a static
source cannot fail (log entry 20). -/
def Obligations.ClockFieldsAreInRangeAndFailuresReadEpoch : Prop :=
  (∀ (p : Params) (r : ClockReading),
    (clockField p r 0x0).toNat * 256 + (clockField p r 0x1).toNat = r.year.toNat ∧
    (clockField p r 0x2).toNat = r.month.val ∧ (clockField p r 0x2).toNat ≤ 11 ∧
    (clockField p r 0x3).toNat = r.dayIndex.val + 1 ∧ 1 ≤ (clockField p r 0x3).toNat ∧
    (clockField p r 0x3).toNat ≤ 31 ∧
    (clockField p r 0x4).toNat = r.hour.val ∧ (clockField p r 0x4).toNat ≤ 23 ∧
    (clockField p r 0x5).toNat = r.minute.val ∧ (clockField p r 0x5).toNat ≤ 59 ∧
    (clockField p r 0x6).toNat = r.second.val ∧ (clockField p r 0x6).toNat ≤ 59 ∧
    (∀ day : Fin 7, [Weekday.monday, .tuesday, .wednesday, .thursday, .friday, .saturday, .sunday][day] = r.weekday →
      clockField p r 0x7 = p.weekdayMap[day]) ∧
    (clockField p r 0x8).toNat * 256 + (clockField p r 0x9).toNat = r.ydayIndex.val + p.ydayBase.val ∧
    clockField p r 0xA = (if r.dst then 1 else 0) ∧
    (p.wellFormed = true → ∀ q : ClockReading, clockField p q 0x7 = clockField p r 0x7 → q.weekday = r.weekday)) ∧
  (∀ (source : TimeSource) (monotonic : Nat), (∀ instant, source ≠ .staticInstant instant) →
    ∃ r, readingOf source .failure monotonic = r ∧ r.year.toNat = 1970 ∧ r.month.val = 0 ∧ r.dayIndex.val = 0 ∧
      r.hour.val = 0 ∧ r.minute.val = 0 ∧ r.second.val = 0 ∧ r.weekday = .thursday ∧ r.ydayIndex.val = 0 ∧
      r.dst = false) ∧
  ∀ (s : State) (index : BitVec 4), index ≤ 0xA → (∀ instant, s.timeSource ≠ .staticInstant instant) →
    answer s.outside.clocks Config.clockAnswer s.outside.draws = .failure →
    [(0x07 : Byte), 0xB2, 0, 1, 0, 0, 0, s.params.weekdayMap[3], 0, BitVec.ofNat 8 s.params.ydayBase.val, 0][index.toNat]? =
      some (devIn (0xC#4 ++ index) s).1

/-- DEO in all modes, to ports whose write fires no action: stores the byte, in short mode the two bytes at p and
p + 1 (modulo 2^8), high byte first, pops its operands, and changes nothing else (R311, R382, R398, D8, D36). -/
def Obligations.DeoToQuietPortOnlyStores : Prop :=
  ∀ (m : Mode) (s : State) (l : List Byte) (p : Byte) (v : BitVec m.width.bits),
    (s.stack (srcOf m)).items = l ++ valueBytes _ v ++ [p] → quietPort p = true →
    (m.short = true → quietPort (p + 1) = true) →
    ∃ port : Page,
      Completes (.form .deo m) s (srcOf m) (l ++ kept m (valueBytes _ v ++ [p])) { s with port := port } ∧
      (m.short = false → port.get p = v.setWidth 8) ∧
      (m.short = true → port.get p = hiByte (v.setWidth 16) ∧ port.get (p + 1) = loByte (v.setWidth 16)) ∧
      ∀ q : Byte, q ≠ p → (m.short = true → q ≠ p + 1) → port.get q = s.port.get q

/-- A byte-wide DEO to port 0x0F ends the run in Halt(b) where b is not 0x00, after the byte is stored, and does not
halt where it is; one to port 0x0E shows the debug view of both stacks where b is not 0x00, after its operands are
popped and the byte is stored, and only stores the byte where it is (R385, R386, R169, R513). -/
def Obligations.DeoToSystemPortsHaltsOrShowsStacks : Prop :=
  ∀ (k r : Bool) (s : State) (l : List Byte) (b : Byte),
    ((s.stack (srcOf ⟨k, r, false⟩)).items = l ++ [b, 0x0F] →
      Completes (.form .deo ⟨k, r, false⟩) s (srcOf ⟨k, r, false⟩) (l ++ kept ⟨k, r, false⟩ [b, 0x0F])
        { s with port := s.port.set 0x0F b, event := if b = 0 then s.event else some (.halt b) }) ∧
    ((s.stack (srcOf ⟨k, r, false⟩)).items = l ++ [b, 0x0E] →
      ∃ st : Stack,
        st.HoldsOver (l ++ kept ⟨k, r, false⟩ [b, 0x0E]) (s.stack (srcOf ⟨k, r, false⟩)) ∧
        exec (.form .deo ⟨k, r, false⟩) s = .next (closeKeep
          { (if b = 0 then s.setStack (srcOf ⟨k, r, false⟩) st
              else (s.setStack (srcOf ⟨k, r, false⟩) st).call (.debugView
                (s.setStack (srcOf ⟨k, r, false⟩) st).wst.page (s.setStack (srcOf ⟨k, r, false⟩) st).rst.page)) with
            port := s.port.set 0x0E b }))

/-- DEO2 to any port p stores both bytes, high byte at p and low byte at p + 1 (modulo 2^8), then runs the trigger of p
and, unless that gave a halt code, the trigger of p + 1. So DEO2 to port 0x0F stores both bytes, at 0x0F and 0x10, and
halts with the high byte where that is not 0x00; DEO2 to port 0x0E shows the debug view first, where its high byte is
not 0x00, and then halts with the low byte, where that is not (R383, R385, R386, R500, R552, D8, C3). -/
def Obligations.DeoShortStoresBothBytesThenTriggersInOrder : Prop :=
  ∀ (k r : Bool) (s : State) (l : List Byte) (h b p : Byte),
    (s.stack (srcOf ⟨k, r, true⟩)).items = l ++ [h, b, p] →
    (∃ st : Stack,
      st.HoldsOver (l ++ kept ⟨k, r, true⟩ [h, b, p]) (s.stack (srcOf ⟨k, r, true⟩)) ∧
      exec (.form .deo ⟨k, r, true⟩) s =
        trigger p { s.setStack (srcOf ⟨k, r, true⟩) st with port := (s.port.set p h).set (p + 1) b }
          (fun first t => match first with
            | some code => .next { closeKeep t with event := some (.halt code) }
            | none => trigger (p + 1) t (fun second u => match second with
              | some code => .next { closeKeep u with event := some (.halt code) }
              | none => .next (closeKeep u)))) ∧
    (p = 0x0F →
      Completes (.form .deo ⟨k, r, true⟩) s (srcOf ⟨k, r, true⟩) (l ++ kept ⟨k, r, true⟩ [h, b, 0x0F])
        { s with
          port := (s.port.set 0x0F h).set 0x10 b
          event := if h = 0 then s.event else some (.halt h) }) ∧
    (p = 0x0E →
      ∃ st : Stack,
        st.HoldsOver (l ++ kept ⟨k, r, true⟩ [h, b, 0x0E]) (s.stack (srcOf ⟨k, r, true⟩)) ∧
        exec (.form .deo ⟨k, r, true⟩) s = .next (closeKeep
          { (if h = 0 then s.setStack (srcOf ⟨k, r, true⟩) st
              else (s.setStack (srcOf ⟨k, r, true⟩) st).call (.debugView
                (s.setStack (srcOf ⟨k, r, true⟩) st).wst.page (s.setStack (srcOf ⟨k, r, true⟩) st).rst.page)) with
            port := (s.port.set 0x0E h).set 0x0F b
            event := if b = 0 then s.event else some (.halt b) }))

/-- A byte-wide DEO to port 0x18 sends the byte to standard output and to port 0x19 to standard error, every byte
including 0x00, after it is stored; DEO2 to port 0x18 sends its high byte to standard output and then its low byte to
standard error (R383, R390, R391, D8). The record of the two streams is the model's choice (log entry 39). -/
def Obligations.DeoToConsoleWritesItsByte : Prop :=
  (∀ (k r : Bool) (s : State) (l : List Byte) (b : Byte),
    ((s.stack (srcOf ⟨k, r, false⟩)).items = l ++ [b, 0x18] →
      Completes (.form .deo ⟨k, r, false⟩) s (srcOf ⟨k, r, false⟩) (l ++ kept ⟨k, r, false⟩ [b, 0x18])
        { s.call (.stdout b) with port := s.port.set 0x18 b } ∧
      ({ s.call (.stdout b) with port := s.port.set 0x18 b } : State).stdout = s.stdout ++ [b]) ∧
    ((s.stack (srcOf ⟨k, r, false⟩)).items = l ++ [b, 0x19] →
      Completes (.form .deo ⟨k, r, false⟩) s (srcOf ⟨k, r, false⟩) (l ++ kept ⟨k, r, false⟩ [b, 0x19])
        { s.call (.stderr b) with port := s.port.set 0x19 b } ∧
      ({ s.call (.stderr b) with port := s.port.set 0x19 b } : State).stderr = s.stderr ++ [b])) ∧
  ∀ (k r : Bool) (s : State) (l : List Byte) (h b : Byte),
    (s.stack (srcOf ⟨k, r, true⟩)).items = l ++ [h, b, 0x18] →
    Completes (.form .deo ⟨k, r, true⟩) s (srcOf ⟨k, r, true⟩) (l ++ kept ⟨k, r, true⟩ [h, b, 0x18])
      { (s.call (.stdout h)).call (.stderr b) with port := (s.port.set 0x18 h).set 0x19 b }

/-- A DEO writes no port outside its own bytes and the slots of those bytes, changes no file device but that of a slot
it writes to, and, whatever trigger it runs, leaves the source stack with its operands popped and nothing else changed,
the page of the other stack as it was, and pc, the parameters and the datetime source too (R400, R432, R433). -/
def Obligations.DeoStaysWithinItsSlots : Prop :=
  ∀ (m : Mode) (s t : State) (l : List Byte) (p : Byte) (v : BitVec m.width.bits),
    (s.stack (srcOf m)).items = l ++ valueBytes _ v ++ [p] → exec (.form .deo m) s = .next t →
    (∀ q : Byte, slotOf q ≠ slotOf p → (m.short = true → slotOf q ≠ slotOf (p + 1)) →
      t.port.get q = s.port.get q) ∧
    (slotOf p ≠ 0xA → (m.short = true → slotOf (p + 1) ≠ 0xA) → t.fd0 = s.fd0) ∧
    (slotOf p ≠ 0xB → (m.short = true → slotOf (p + 1) ≠ 0xB) → t.fd1 = s.fd1) ∧
    (t.stack (srcOf m)).HoldsOver (l ++ kept m (valueBytes _ v ++ [p])) (s.stack (srcOf m)) ∧
    (t.stack (dstOf m)).page = (s.stack (dstOf m)).page ∧
    t.pc = s.pc ∧ t.params = s.params ∧ t.timeSource = s.timeSource

/-! ## The file devices -/

/-- DEO to a port of a file slot stores its byte and runs the trigger of that port on the state that leaves, with the
operands popped; DEO2 stores both bytes and then runs the triggers of both ports in order, the first one first. A
trigger that is refused refuses the instruction (R382, R383, R384, R432, D8). DEO2 to the last port of a slot, whose
two ports have no action, falls under the statement on quiet ports. -/
def Obligations.DeoToFileSlotRunsItsTriggers : Prop :=
  (∀ (k r : Bool) (i : FileId) (s : State) (l : List Byte) (index : BitVec 4) (b : Byte),
    (s.stack (srcOf ⟨k, r, false⟩)).items = l ++ [b, i.base + index.setWidth 8] →
    ∃ st : Stack,
      st.HoldsOver (l ++ kept ⟨k, r, false⟩ [b, i.base + index.setWidth 8]) (s.stack (srcOf ⟨k, r, false⟩)) ∧
      exec (.form .deo ⟨k, r, false⟩) s =
        match fileTrigger i index
          { s.setStack (srcOf ⟨k, r, false⟩) st with port := s.port.set (i.base + index.setWidth 8) b } with
        | .ok t => .next (closeKeep t)
        | .error x => .refused x) ∧
  ∀ (k r : Bool) (i : FileId) (s : State) (l : List Byte) (index : BitVec 4) (h b : Byte), index ≠ 0xF →
    (s.stack (srcOf ⟨k, r, true⟩)).items = l ++ [h, b, i.base + index.setWidth 8] →
    ∃ st : Stack,
      st.HoldsOver (l ++ kept ⟨k, r, true⟩ [h, b, i.base + index.setWidth 8]) (s.stack (srcOf ⟨k, r, true⟩)) ∧
      exec (.form .deo ⟨k, r, true⟩) s =
        match fileTrigger i index
          { s.setStack (srcOf ⟨k, r, true⟩) st with
            port := (s.port.set (i.base + index.setWidth 8) h).set (i.base + index.setWidth 8 + 1) b } with
        | .ok t => (match fileTrigger i (index + 1) t with
          | .ok u => .next (closeKeep u)
          | .error x => .refused x)
        | .error x => .refused x

/-- A trigger that reads the path is refused where memory holds no zero byte from the path pointer up to 0xFFFF: Stat
and Delete always, Read and Write from Idle; where there is one, no trigger is refused for its path, and the path is
the bytes before the first zero (R86, R431, R435, D28). -/
def Obligations.UnterminatedPathIsRefused : Prop :=
  ∀ (i : FileId) (s : State),
    ((∀ a : Word, (filePathPtr i s).toNat ≤ a.toNat → s.mem.read a ≠ 0) →
      filePath i s = none ∧ fileTrigger i 0x4 s = .error .unterminatedPath ∧
      fileTrigger i 0x6 s = .error .unterminatedPath ∧
      (s.fd i = .idle → fileTrigger i 0xC s = .error .unterminatedPath ∧
        fileTrigger i 0xE s = .error .unterminatedPath)) ∧
    ∀ n : Nat, (filePathPtr i s).toNat + n < 65536 → s.mem.read (filePathPtr i s + BitVec.ofNat 16 n) = 0 →
      (∀ k < n, s.mem.read (filePathPtr i s + BitVec.ofNat 16 k) ≠ 0) →
      filePath i s = some (s.mem.readBytes (filePathPtr i s) n) ∧
      ∀ index, fileTrigger i index s ≠ .error .unterminatedPath

/-- DEO2 of a path pointer to offset 0x08 of a file slot stores the pointer and resets the device to Idle, whatever its
state, and changes nothing else; no other trigger brings a device that is not Idle back to Idle (R383, R439, R448,
R544). -/
def Obligations.OnlyChangeNameResetsToIdle : Prop :=
  (∀ (k r : Bool) (i : FileId) (s : State) (l : List Byte) (v : Word),
    (s.stack (srcOf ⟨k, r, true⟩)).items = l ++ [hiByte v, loByte v, i.base + 0x08] →
    Completes (.form .deo ⟨k, r, true⟩) s (srcOf ⟨k, r, true⟩)
      (l ++ kept ⟨k, r, true⟩ [hiByte v, loByte v, i.base + 0x08])
      { s.setFd i .idle with
        port := (s.port.set (i.base + 0x08) (hiByte v)).set (i.base + 0x09) (loByte v) }) ∧
  ∀ (i : FileId) (index : BitVec 4) (s t : State), index ≠ 0x8 → fileTrigger i index s = .ok t →
    s.fd i ≠ .idle → t.fd i ≠ .idle

/-- The Read trigger in a Reading state. ReadingFile: it copies the next bytes of the buffer, at most Length of them, to
memory from Target on, and the cursor moves past them; at the end of the buffer the count is 0 and the state stays.
ReadingStats: it copies whole entries from the head of the queue, as many as fit in Length, one after the other from
Target on, and stops before the first that does not fit; the queue keeps the others. The result port holds the number
of bytes copied, and nothing else changes (R442, R443, D23). -/
def Obligations.ReadCopiesNextChunk : Prop :=
  (∀ (i : FileId) (s : State) (bytes : Bytes) (cursor : Nat), s.mem.wf → s.fd i = .readingFile bytes cursor →
    cursor ≤ bytes.length →
    ∃ t, fileTrigger i 0xC s = .ok t ∧
      Transferred i (.readingFile bytes (cursor + min (fileLength i s) (bytes.length - cursor)))
        ((bytes.drop cursor).take (fileLength i s)) s.outside s t) ∧
  ∀ (i : FileId) (s : State) (queue : List Bytes), s.mem.wf → s.fd i = .readingStats queue →
    ∃ (n : Nat) (t : State), fileTrigger i 0xC s = .ok t ∧
      Transferred i (.readingStats (queue.drop n)) (queue.take n).flatten s.outside s t ∧
      n ≤ queue.length ∧ (queue.take n).flatten.length ≤ fileLength i s ∧
      ∀ e, queue[n]? = some e → fileLength i s < (queue.take n).flatten.length + e.length

/-- Reads of a file buffer are a partition: whatever lengths are asked for one after the other, the chunks in order are
the bytes of the file from the cursor on, as far as the lengths reach, and so the whole file once they reach its end.
A Read of a listing takes whole entries from the head of the queue, as many as fit in the budget, stops before the
first that does not fit, and never splits an entry (R459, R443). -/
def Obligations.ReadsPartitionFilesAndNeverSplitEntries : Prop :=
  (∀ (bytes : Bytes) (lengths : List Nat) (cursor : Nat),
    (successiveChunks bytes lengths cursor).flatten = (bytes.drop cursor).take lengths.sum ∧
    (bytes.length ≤ lengths.sum → (successiveChunks bytes lengths 0).flatten = bytes)) ∧
  ∀ (budget : Nat) (queue : List Bytes), ∃ n : Nat, n ≤ queue.length ∧
    takeEntries budget queue = ((queue.take n).flatten, queue.drop n) ∧
    (queue.take n).flatten.length ≤ budget ∧
    ∀ e, queue[n]? = some e → budget < (queue.take n).flatten.length + e.length

/-- Read from Idle, with a terminated path: the host is asked to read the path. An error gives result 0, and the device
stays Idle. A file is opened at its start and its first chunk, at most Length bytes, copied to memory from Target on in
the same trigger; so is a listing, with as many whole entries as fit in Length. The result port holds the number of
bytes copied, and nothing else changes but the host side (R440, R441, R442, R443, D22). -/
def Obligations.ReadFromIdleOpensAndReads : Prop :=
  ∀ (i : FileId) (s : State) (path : Bytes), s.mem.wf → s.fd i = .idle → filePath i s = some path →
    (hostRead path s).2.outside.calls = s.outside.calls ++ [.fileRead path] ∧
    ((hostRead path s).1 = .error → ∃ t, fileTrigger i 0xC s = .ok t ∧ t.mem = s.mem ∧
      Transferred i .idle [] (hostRead path s).2.outside s t) ∧
    (∀ bytes, (hostRead path s).1 = .file bytes → ∃ t, fileTrigger i 0xC s = .ok t ∧
      Transferred i (.readingFile bytes (min (fileLength i s) bytes.length)) (bytes.take (fileLength i s))
        (hostRead path s).2.outside s t) ∧
    (∀ lines, (hostRead path s).1 = .stats lines → ∃ (n : Nat) (t : State), fileTrigger i 0xC s = .ok t ∧
      Transferred i (.readingStats (lines.drop n)) (lines.take n).flatten (hostRead path s).2.outside s t ∧
      n ≤ lines.length ∧ (lines.take n).flatten.length ≤ fileLength i s ∧
      ∀ e, lines[n]? = some e → fileLength i s < (lines.take n).flatten.length + e.length)

/-- The Write trigger. From Idle with an empty path the result is 0, the device stays Idle and nothing else changes.
From Idle with a path the file is created first unless the append flag is set, the device enters Writing(path) and in
the same trigger writes its first chunk. In Writing(path) it writes the next chunk to the remembered path, whatever
the path field holds, creates nothing, and stays in that state. A chunk is the Length bytes of memory from the address
in the field at offset 0x0E (conflict C4, log entry 40); the result is the count that the host reports for it, at most
Length, or 0 on an error; memory, the other ports and all other state of the core stay as they are (R445, R446, R447,
R454, D25, D27). -/
def Obligations.WriteEntersWritingAndReportsCount : Prop :=
  ∀ (i : FileId) (s : State) (path data : Bytes),
    data = s.mem.readBytes (joinBytes (s.port.get (i.base + 0x0E)) (s.port.get (i.base + 0x0F))) (fileLength i s) →
    (s.fd i = .idle → filePath i s = some path → path = [] → ∃ t, fileTrigger i 0xE s = .ok t ∧
      t = { s with port := t.port } ∧ ResultIs i 0 s t) ∧
    (s.fd i = .idle → filePath i s = some path → path ≠ [] → ∃ created t,
      created = (if s.port.get (i.base + 0x07) = 0 then hostCreate path s else s) ∧ fileTrigger i 0xE s = .ok t ∧
      t = { s.setFd i (.writing path) with port := t.port, outside := (hostWrite path data created).2.outside } ∧
      ResultIs i ((hostWrite path data created).1.getD 0) s t ∧
      (hostWrite path data created).1.getD 0 ≤ fileLength i s ∧
      t.outside.calls = s.outside.calls ++ (if s.port.get (i.base + 0x07) = 0 then [.fileCreate path] else []) ++
        [.fileWrite path data]) ∧
    (s.fd i = .writing path → ∃ t, fileTrigger i 0xE s = .ok t ∧
      t = { s with port := t.port, outside := (hostWrite path data s).2.outside } ∧
      ResultIs i ((hostWrite path data s).1.getD 0) s t ∧
      (hostWrite path data s).1.getD 0 ≤ fileLength i s ∧
      t.outside.calls = s.outside.calls ++ [.fileWrite path data])

/-- Stat: where the host gives a line that fits in Length, the line is copied to memory from Target on and the result is
its length; else the result is 0 and memory is unchanged; the device keeps its state, and nothing else changes but the
host side. Delete calls the host with the path and changes nothing of the core: no stack, no port, no memory, no
device state, not pc (R437, R438, D20, D21, D26). -/
def Obligations.StatCopiesLineThatFitsAndDeleteChangesNoCoreState : Prop :=
  ∀ (i : FileId) (s : State) (path : Bytes), s.mem.wf → filePath i s = some path →
    (hostStat path s).2.outside.calls = s.outside.calls ++ [.fileStat path] ∧
    (∃ t, fileTrigger i 0x4 s = .ok t ∧
      (∀ line, (hostStat path s).1 = some line → line.length ≤ fileLength i s →
        Transferred i (s.fd i) line (hostStat path s).2.outside s t) ∧
      ((∀ line, (hostStat path s).1 = some line → fileLength i s < line.length) →
        Transferred i (s.fd i) [] (hostStat path s).2.outside s t ∧ t.mem = s.mem)) ∧
    ∃ o : Outside, fileTrigger i 0x6 s = .ok { s with outside := o } ∧
      o.calls = s.outside.calls ++ [.fileDelete path]

/-- A Read trigger in the Writing state and a Write trigger in a Reading state do what FILE_CROSS_TRIGGER says: nothing,
result 0, or no step; the device state does not change (R444, D24). -/
def Obligations.CrossTriggerFollowsParameter : Prop :=
  ∀ (i : FileId) (s : State) (index : BitVec 4),
    (index = 0xC ∧ (∃ path, s.fd i = .writing path)) ∨
      (index = 0xE ∧ ((∃ bytes cursor, s.fd i = .readingFile bytes cursor) ∨ ∃ queue, s.fd i = .readingStats queue)) →
    (s.params.crossTrigger = .ignore → fileTrigger i index s = .ok s) ∧
    (s.params.crossTrigger = .zeroResult → fileTrigger i index s = .ok (setResult i 0 s)) ∧
    (s.params.crossTrigger = .refuse → fileTrigger i index s = .error .crossTrigger)

/-- The laws of the file interface. A write reports at most the length of its data. Virtual: a path that does not exist
cannot be written or read and has no stat line; a path that exists is read as its contents and has a stat line; a write
that reports a count appends that many of the first bytes of the data to the contents and changes no other path; a
created path exists and is empty, a deleted one does not exist; "./" reads as one line for each path. Physical: a path
with a parent-directory component has, with the safety flag on, no stat line, and read and write give an error; for
every other path the answers are the host's, a count bounded by the data (R451 to R458, D27). The model's choices: only
the core changes a virtual file (log entry 10), which bytes a write stores (log entry 11), where "./" is special (log
entry 12), the safety flag acts on no virtual path (log entry 17), and a virtual create or delete takes effect (log
entry 41). -/
def Obligations.FileInterfaceKeepsItsLaws : Prop :=
  ∀ (s : State) (path data : Bytes),
    (∀ count, (hostWrite path data s).1 = some count → count ≤ data.length) ∧
    (s.params.fileIface = .virtual →
      (contentsOf s.outside.files path = none → (hostWrite path data s).1 = none ∧
        (path ≠ currentDirectory → (hostRead path s).1 = .error ∧ (hostStat path s).1 = none)) ∧
      (∀ old, contentsOf s.outside.files path = some old →
        (path ≠ currentDirectory → (hostRead path s).1 = .file old ∧ (hostStat path s).1.isSome = true) ∧
        ∀ count, (hostWrite path data s).1 = some count →
          contentsOf (hostWrite path data s).2.outside.files path = some (old ++ data.take count)) ∧
      (∀ other, other ≠ path →
        contentsOf (hostWrite path data s).2.outside.files other = contentsOf s.outside.files other) ∧
      contentsOf (hostCreate path s).outside.files path = some [] ∧
      contentsOf (hostDelete path s).outside.files path = none ∧
      ∃ lines, (hostRead currentDirectory s).1 = .stats lines ∧ lines.length = s.outside.files.length) ∧
    (s.params.fileIface = .physical →
      (hostStat path s).1 = (if s.params.safety && Config.hasParentComponent path then none
        else answer s.outside.stats Config.statAnswer s.outside.draws) ∧
      (hostRead path s).1 = (if s.params.safety && Config.hasParentComponent path then .error
        else answer s.outside.reads Config.readAnswer s.outside.draws) ∧
      (hostWrite path data s).1 = (if s.params.safety && Config.hasParentComponent path then none
        else (answer s.outside.writes Config.writeAnswer s.outside.draws).map (min · data.length)))

/-! ## The machine -/

/-- Where the run goes on and the bytes at pc decode to a well-formed instruction, a step is the meaning of that
instruction, with pc at the byte after the opcode; for BRK, with pc where it was (R161). -/
def Obligations.StepRunsDecodedInstruction : Prop :=
  ∀ (s : State) (i : Instr) (rest : List Byte), s.event = none → decode (fetchBytes s) = .ok (i, rest) →
    i.wellFormed = true → step s = if i = .brk then exec .brk s else exec i { s with pc := s.pc + 1 }

/-- Every step keeps the invariant of the machine: memory canonical, each stack pointer in [0, 254], the error bytes
0x00 until a fault and then its code, the keep pointers clear between instructions, the file cursors within their
buffers, the weekday map injective, no Halt(0x00) and no Error(Unknown), and the host's monotonic clock not below the
anchor of a custom source (R35, R36, R41, R397, R493, R494, R513; that the clock never falls is log entry 21). -/
def Obligations.StepKeepsInvariant : Prop :=
  ∀ s t : State, s.Inv → step s = .next t → t.Inv

/-- The invariant holds of the reset state (R56). -/
def Obligations.ResetHasInvariant : Prop := State.reset.Inv

/-- The launch of a ROM of at most 65,280 bytes: pc is 0x0100, the ROM lies in memory from 0x0100 on, every other byte
of memory, of the stack pages and of the ports is 0x00, the keep pointers are clear, the file devices Idle, and the
datetime source is the host's choice, its anchor captured from the monotonic clock as it stands then; a longer ROM is
refused (R42, R56, R540, R541; the zero bytes are D2, the keep
pointers D3, the refusal D34). -/
def Obligations.BootLoadsRomIntoResetState : Prop :=
  ∀ rom : List Byte,
    (rom.length ≤ 65280 → ∃ s, boot rom = .next s ∧ s.pc = 0x0100 ∧ s.event = none ∧
      (∀ a : Word, s.mem.read a = if 0x100 ≤ a.toNat then rom.getD (a.toNat - 0x100) 0 else 0) ∧
      (∀ k : Byte, s.wst.page.get k = 0 ∧ s.rst.page.get k = 0 ∧ s.port.get k = 0) ∧
      s.wst.keep = none ∧ s.rst.keep = none ∧ s.fd0 = .idle ∧ s.fd1 = .idle ∧
      s.timeSource = Config.timeSource.construct s.outside.monotonic) ∧
    (65280 < rom.length → boot rom = .refused .romTooLong)

/-- After a Break with a nonzero console vector the host is asked for a key, the oldest it has ready or else a free one.
With a key the host stores it in port 0x12, fires no trigger, sets pc to the vector and the run goes on; nothing else
of the core changes. A run that has ended takes no further step: after Halt, after Error, after a Break with console
vector 0x0000, and after a Break at the end of the key input (R173, R496, R502, R503, R504, R506, D13, D14, D15). -/
def Obligations.OnlyBreakWithVectorAndKeyResumes : Prop :=
  (∀ (s : State) (key : Byte), s.event = some .brk →
    joinBytes (s.port.get 0x10) (s.port.get 0x11) ≠ 0 → (hostKey s).1 = some key →
    step s = .next { s with
      port := s.port.set 0x12 key
      pc := joinBytes (s.port.get 0x10) (s.port.get 0x11)
      event := none
      outside := { s.outside with
        keys := s.outside.keys.tail, draws := s.outside.draws + 1, calls := s.outside.calls ++ [.key] } }) ∧
  ∀ s : State,
    (∀ key later, s.outside.keys = key :: later → (hostKey s).1 = key) ∧
    (∀ code, s.event = some (.halt code) → step s = .fault (.halted code)) ∧
    (∀ kind, s.event = some (.error kind) → step s = .fault (.errored kind)) ∧
    (s.event = some .brk → joinBytes (s.port.get 0x10) (s.port.get 0x11) = 0 →
      step s = .fault .brokeWithoutVector) ∧
    (s.event = some .brk → joinBytes (s.port.get 0x10) (s.port.get 0x11) ≠ 0 → (hostKey s).1 = none →
      step s = .fault .keyInputEnded)

/-- Memory reads back what is written, big-endian at every address, the second byte's address modulo 2^16: writing a
short at 0xFFFF puts its low byte at 0x0000 (R81, R82, R88). -/
def Obligations.MemoryIsBigEndianAndWraps : Prop :=
  ∀ (m : Memory) (a v x : Word), m.wf →
    (m.write16 a v).read16 a = v ∧ ((m.write16 a v).read a).toNat = v.toNat / 256 ∧
    ((m.write16 a v).read (a + 1)).toNat = v.toNat % 256 ∧
    (x ≠ a → x ≠ a + 1 → (m.write16 a v).read x = m.read x) ∧
    (m.write16 0xFFFF v).read 0x0000 = loByte v
end

