-- ==== Sys2Proof/Laws/Memory.lean ====
section
/-!
SUPPORT. The laws of memory: every operation keeps the canonical form, a read after a write gives the value
written, and a write leaves every other address alone (R81, R82, R88).
-/

namespace Sys2Proof.Machine

/-! ## The cells -/

theorem wf_nil : Memory.wf [] := by simp [Memory.wf]

theorem wf_cons {c : Host.Cell} {m : Memory} :
    Memory.wf (c :: m) ↔ (∀ d ∈ m, c.1 < d.1) ∧ c.1 < 65536 ∧ c.2 ≠ 0 ∧ Memory.wf m := by
  simp only [Memory.wf, List.pairwise_cons, List.forall_mem_cons]
  tauto

theorem cellAt_eq_zero_of_lt {m : Memory} {k : Nat} (h : ∀ c ∈ m, k < c.1) : cellAt m k = 0 := by
  cases m with
  | nil => rfl
  | cons c rest => simp [cellAt, h c (by simp)]

theorem lt_of_mem_putCell {m : Memory} {lower key : Nat} {b : Byte} (hm : ∀ c ∈ m, lower < c.1) (hk : lower < key) :
    ∀ c ∈ putCell m key b, lower < c.1 := by
  induction m with
  | nil =>
    unfold putCell
    split <;> simp [hk]
  | cons d rest ih =>
    have hrest : ∀ c ∈ rest, lower < c.1 := fun c hc => hm c (by simp [hc])
    have hd : lower < d.1 := hm d (by simp)
    unfold putCell
    split
    · split
      · exact hm
      · simpa [hk] using hm
    · split
      · split
        · exact hrest
        · simpa [hk] using hrest
      · simpa [hd] using ih hrest

/-- Putting a byte at an address of the address space keeps the canonical form. -/
theorem putCell_wf {m : Memory} {key : Nat} {b : Byte} (hm : m.wf) (hk : key < 65536) : (putCell m key b).wf := by
  induction m with
  | nil =>
    unfold putCell
    split
    · exact wf_nil
    · next h => exact wf_cons.2 ⟨by simp, hk, h, wf_nil⟩
  | cons d rest ih =>
    obtain ⟨hlt, hd, hb, hrest⟩ := wf_cons.1 hm
    unfold putCell
    split
    · next h =>
      split
      · exact hm
      · next hne =>
        refine wf_cons.2 ⟨?_, hk, hne, hm⟩
        intro c hc
        rcases List.mem_cons.1 hc with rfl | hc
        · exact h
        · exact h.trans (hlt c hc)
    · split
      · next heq =>
        split
        · exact hrest
        · next hne => exact wf_cons.2 ⟨by simpa [heq] using hlt, hk, hne, hrest⟩
      · exact wf_cons.2 ⟨lt_of_mem_putCell hlt (by omega), hd, hb, ih hrest⟩

theorem cellAt_putCell {m : Memory} (hm : m.wf) (key k : Nat) (b : Byte) :
    cellAt (putCell m key b) k = if k = key then b else cellAt m k := by
  induction m with
  | nil =>
    unfold putCell
    split
    · next h => simp [cellAt, h]
    · simp only [cellAt]
      split
      · rw [if_neg (by omega)]
      · rfl
  | cons d rest ih =>
    obtain ⟨hlt, -, -, hrest⟩ := wf_cons.1 hm
    unfold putCell
    split
    · next h =>
      split
      · next hb =>
        split
        · next hk => simp [hk, cellAt, h, hb]
        · rfl
      · simp only [cellAt]
        rcases Nat.lt_trichotomy k key with hk | hk | hk
        · simp [hk, Nat.ne_of_lt hk, hk.trans h]
        · simp [hk]
        · simp [Nat.ne_of_gt hk, Nat.not_lt.2 hk.le]
    · next h =>
      split
      · next heq =>
        split
        · next hb =>
          rcases Nat.lt_trichotomy k key with hk | hk | hk
          · rw [cellAt_eq_zero_of_lt fun c hc => (hk.trans_eq heq).trans (hlt c hc)]
            simp [cellAt, Nat.ne_of_lt hk, heq ▸ hk]
          · rw [cellAt_eq_zero_of_lt fun c hc => (hk.trans heq).trans_lt (hlt c hc)]
            simp [hk, hb]
          · simp [cellAt, Nat.ne_of_gt hk, ← heq, Nat.not_lt.2 hk.le]
        · simp only [cellAt, ← heq]
          by_cases hk : k = key
          · simp [hk]
          · simp [hk]
      · simp only [cellAt, ih hrest]
        split
        · next hk => rw [if_neg (by omega)]
        · split
          · rw [if_neg (by omega)]
          · rfl

/-! ## Bytes and shorts -/

theorem Memory.write_wf {m : Memory} (hm : m.wf) (a : Word) (b : Byte) : (m.write a b).wf := putCell_wf hm a.isLt

theorem Memory.read_write {m : Memory} (hm : m.wf) (a x : Word) (b : Byte) :
    (m.write a b).read x = if x = a then b else m.read x := by
  simp only [Memory.read, Memory.write, cellAt_putCell hm, BitVec.toNat_inj]

theorem Memory.write16_wf {m : Memory} (hm : m.wf) (a v : Word) : (m.write16 a v).wf :=
  Memory.write_wf (Memory.write_wf hm _ _) _ _

theorem word_ne_succ (a : Word) : a ≠ a + 1 := by
  intro h
  have := congrArg BitVec.toNat h
  simp [BitVec.toNat_add] at this
  omega

theorem word_add_succ (a : Word) (k : Nat) : a + 1 + BitVec.ofNat 16 k = a + BitVec.ofNat 16 (k + 1) := by
  apply BitVec.eq_of_toNat_eq
  have one : (1 : Word).toNat = 1 := rfl
  simp only [BitVec.toNat_add, BitVec.toNat_ofNat, one]
  omega

theorem Memory.read_write16 {m : Memory} (hm : m.wf) (a v x : Word) :
    (m.write16 a v).read x = if x = a then hiByte v else if x = a + 1 then loByte v else m.read x := by
  unfold Memory.write16
  rw [Memory.read_write (Memory.write_wf hm _ _), Memory.read_write hm]
  by_cases h1 : x = a
  · simp [h1]
  · simp [h1]

theorem Memory.writeW_wf {m : Memory} (hm : m.wf) (a : Word) (w : Width) (v : BitVec w.bits) :
    (m.writeW a w v).wf := by
  cases w
  · exact Memory.write_wf hm a v
  · exact Memory.write16_wf hm a v

/-! ## Byte order -/

@[simp] theorem hiByte_joinBytes (h l : Byte) : hiByte (joinBytes h l) = h := by
  ext i hi
  simp only [hiByte, joinBytes, BitVec.getElem_extractLsb', BitVec.getLsbD_append]
  rw [if_neg (by omega), Nat.add_sub_cancel_left, BitVec.getLsbD_eq_getElem hi]

@[simp] theorem loByte_joinBytes (h l : Byte) : loByte (joinBytes h l) = l := by
  ext i hi
  simp only [loByte, joinBytes, BitVec.getElem_extractLsb', BitVec.getLsbD_append, Nat.zero_add]
  rw [if_pos hi, BitVec.getLsbD_eq_getElem hi]

@[simp] theorem joinBytes_hi_lo (v : Word) : joinBytes (hiByte v) (loByte v) = v := by
  apply BitVec.eq_of_getLsbD_eq
  intro i hi
  simp only [joinBytes, hiByte, loByte, BitVec.getLsbD_append, BitVec.getLsbD_extractLsb']
  split
  · next h => simp [h]
  · next h =>
    have : i - 8 < 8 := by omega
    simp [this, show 8 + (i - 8) = i by omega]

theorem Memory.read16_write16 {m : Memory} (hm : m.wf) (a v : Word) : (m.write16 a v).read16 a = v := by
  unfold Memory.read16
  rw [Memory.read_write16 hm, Memory.read_write16 hm]
  simp

/-! ## Byte strings -/

@[simp] theorem Memory.length_readBytes (m : Memory) (a : Word) (n : Nat) : (m.readBytes a n).length = n := by
  induction n generalizing a with
  | zero => rfl
  | succ n ih => simp [Memory.readBytes, ih]

theorem Memory.writeBytes_wf {m : Memory} (hm : m.wf) (a : Word) (bytes : Bytes) : (m.writeBytes a bytes).wf := by
  induction bytes generalizing m a with
  | nil => exact hm
  | cons b rest ih => exact ih (Memory.write_wf hm _ _) _

/-- A copy leaves every address outside the copied range alone. -/
theorem Memory.read_writeBytes_of_outside {m : Memory} (hm : m.wf) (a x : Word) (bytes : Bytes)
    (h : ∀ k < bytes.length, x ≠ a + BitVec.ofNat 16 k) : (m.writeBytes a bytes).read x = m.read x := by
  induction bytes generalizing m a with
  | nil => rfl
  | cons b rest ih =>
    rw [Memory.writeBytes, ih (Memory.write_wf hm _ _), Memory.read_write hm, if_neg]
    · simpa using h 0 (by simp)
    · intro k hk
      rw [word_add_succ]
      exact h (k + 1) (by simpa using hk)

/-- A copy of at most 65,536 bytes is read back whole. -/
theorem Memory.read_writeBytes {m : Memory} (hm : m.wf) (a : Word) (bytes : Bytes) (hlen : bytes.length ≤ 65536)
    (k : Nat) (hk : k < bytes.length) :
    (m.writeBytes a bytes).read (a + BitVec.ofNat 16 k) = bytes[k] := by
  induction bytes generalizing m a k with
  | nil => simp at hk
  | cons b rest ih =>
    simp only [List.length_cons] at hlen hk
    cases k with
    | zero =>
      rw [Memory.writeBytes, Memory.read_writeBytes_of_outside (Memory.write_wf hm _ _), Memory.read_write hm]
      · simp
      · intro j hj heq
        rw [word_add_succ] at heq
        have := congrArg BitVec.toNat heq
        simp [BitVec.toNat_add] at this
        have := a.isLt
        omega
    | succ k =>
      rw [Memory.writeBytes, ← word_add_succ, ih (Memory.write_wf hm _ _) _ (by omega) _ (by omega)]
      rfl

theorem Memory.readBytes_eq_of_read {m : Memory} (a : Word) (bytes : Bytes)
    (h : ∀ k (hk : k < bytes.length), m.read (a + BitVec.ofNat 16 k) = bytes[k]) :
    m.readBytes a bytes.length = bytes := by
  induction bytes generalizing a with
  | nil => rfl
  | cons b rest ih =>
    simp only [List.length_cons, Memory.readBytes, List.cons.injEq]
    have hfirst := h 0 (by simp)
    refine ⟨by simpa only [BitVec.ofNat_eq_ofNat, BitVec.add_zero, List.getElem_cons_zero] using hfirst,
      ih _ fun k hk => ?_⟩
    rw [word_add_succ]
    exact h (k + 1) (by simpa using hk)

/-- What a copy of at most 65,536 bytes wrote reads back as the same bytes. -/
theorem Memory.readBytes_writeBytes {m : Memory} (hm : m.wf) (a : Word) (bytes : Bytes)
    (hlen : bytes.length ≤ 65536) : (m.writeBytes a bytes).readBytes a bytes.length = bytes :=
  Memory.readBytes_eq_of_read a bytes fun k hk => Memory.read_writeBytes hm a bytes hlen k hk

end Sys2Proof.Machine
end

