-- ==== Sys2Proof/Laws/Page.lean ====
section
/-!
SUPPORT. Reading a byte of a page after writing one: what `Page.get` and `Page.set` promise.
-/

namespace Sys2Proof.Machine

theorem Page.get_set (p : Page) (i b j : Byte) : (p.set i b).get j = if j = i then b else p.get j := by
  unfold Page.get Page.set
  rw [Vector.getElem_set]
  by_cases h : i.toNat / 16 = j.toNat / 16
  · have same : i.toNat % 16 = j.toNat % 16 ↔ j = i := by
      rw [← BitVec.toNat_inj]
      omega
    simp only [h, if_true, Vector.getElem_set, same]
  · have hne : j ≠ i := by
      rintro rfl
      exact h rfl
    simp only [h, hne, if_false]

@[simp] theorem Page.get_set_self (p : Page) (i b : Byte) : (p.set i b).get i = b := by
  simp [Page.get_set]

theorem Page.get_set_of_ne (p : Page) {i j : Byte} (b : Byte) (h : j ≠ i) : (p.set i b).get j = p.get j := by
  simp [Page.get_set, h]

@[simp] theorem Page.get_zero (i : Byte) : Page.zero.get i = 0 := by
  simp [Page.get, Page.zero]

/-- Two pages that read alike everywhere are the same page. -/
theorem Page.ext_get {p q : Page} (h : ∀ i, p.get i = q.get i) : p = q := by
  apply Vector.ext
  intro r hr
  apply Vector.ext
  intro c hc
  have hi := h (BitVec.ofNat 8 (16 * r + c))
  have hn : (BitVec.ofNat 8 (16 * r + c)).toNat = 16 * r + c := by
    rw [BitVec.toNat_ofNat]
    omega
  unfold Page.get at hi
  have hd : (16 * r + c) / 16 = r := by omega
  have hm : (16 * r + c) % 16 = c := by omega
  simpa only [hn, hd, hm] using hi

theorem Page.set_set (p : Page) (i b c : Byte) : (p.set i b).set i c = p.set i c :=
  Page.ext_get fun j => by
    simp only [Page.get_set]
    split <;> rfl

end Sys2Proof.Machine
end

