-- ==== Sys2Proof/Laws/State.lean ====
section
/-!
SUPPORT. What each named update of the state leaves in each field, one lemma a field, and how the updates of a stack
combine.
-/

namespace Sys2Proof.Machine

/-! ## setStack -/

@[simp] theorem pc_setStack (s : State) (S : StackId) (st : Stack) : (s.setStack S st).pc = s.pc := by cases S <;> rfl
@[simp] theorem mem_setStack (s : State) (S : StackId) (st : Stack) : (s.setStack S st).mem = s.mem := by cases S <;> rfl
@[simp] theorem port_setStack (s : State) (S : StackId) (st : Stack) : (s.setStack S st).port = s.port := by cases S <;> rfl
@[simp] theorem fd0_setStack (s : State) (S : StackId) (st : Stack) : (s.setStack S st).fd0 = s.fd0 := by cases S <;> rfl
@[simp] theorem fd1_setStack (s : State) (S : StackId) (st : Stack) : (s.setStack S st).fd1 = s.fd1 := by cases S <;> rfl
@[simp] theorem timeSource_setStack (s : State) (S : StackId) (st : Stack) : (s.setStack S st).timeSource = s.timeSource := by cases S <;> rfl
@[simp] theorem event_setStack (s : State) (S : StackId) (st : Stack) : (s.setStack S st).event = s.event := by cases S <;> rfl
@[simp] theorem params_setStack (s : State) (S : StackId) (st : Stack) : (s.setStack S st).params = s.params := by cases S <;> rfl
@[simp] theorem outside_setStack (s : State) (S : StackId) (st : Stack) : (s.setStack S st).outside = s.outside := by cases S <;> rfl

/-! ## keepOn -/

@[simp] theorem pc_keepOn (s : State) (S : StackId) : (keepOn S s).pc = s.pc := by cases S <;> rfl
@[simp] theorem mem_keepOn (s : State) (S : StackId) : (keepOn S s).mem = s.mem := by cases S <;> rfl
@[simp] theorem port_keepOn (s : State) (S : StackId) : (keepOn S s).port = s.port := by cases S <;> rfl
@[simp] theorem fd0_keepOn (s : State) (S : StackId) : (keepOn S s).fd0 = s.fd0 := by cases S <;> rfl
@[simp] theorem fd1_keepOn (s : State) (S : StackId) : (keepOn S s).fd1 = s.fd1 := by cases S <;> rfl
@[simp] theorem timeSource_keepOn (s : State) (S : StackId) : (keepOn S s).timeSource = s.timeSource := by cases S <;> rfl
@[simp] theorem event_keepOn (s : State) (S : StackId) : (keepOn S s).event = s.event := by cases S <;> rfl
@[simp] theorem params_keepOn (s : State) (S : StackId) : (keepOn S s).params = s.params := by cases S <;> rfl
@[simp] theorem outside_keepOn (s : State) (S : StackId) : (keepOn S s).outside = s.outside := by cases S <;> rfl

/-! ## keepOff -/

@[simp] theorem pc_keepOff (s : State) (S : StackId) : (keepOff S s).pc = s.pc := by cases S <;> rfl
@[simp] theorem mem_keepOff (s : State) (S : StackId) : (keepOff S s).mem = s.mem := by cases S <;> rfl
@[simp] theorem port_keepOff (s : State) (S : StackId) : (keepOff S s).port = s.port := by cases S <;> rfl
@[simp] theorem fd0_keepOff (s : State) (S : StackId) : (keepOff S s).fd0 = s.fd0 := by cases S <;> rfl
@[simp] theorem fd1_keepOff (s : State) (S : StackId) : (keepOff S s).fd1 = s.fd1 := by cases S <;> rfl
@[simp] theorem timeSource_keepOff (s : State) (S : StackId) : (keepOff S s).timeSource = s.timeSource := by cases S <;> rfl
@[simp] theorem event_keepOff (s : State) (S : StackId) : (keepOff S s).event = s.event := by cases S <;> rfl
@[simp] theorem params_keepOff (s : State) (S : StackId) : (keepOff S s).params = s.params := by cases S <;> rfl
@[simp] theorem outside_keepOff (s : State) (S : StackId) : (keepOff S s).outside = s.outside := by cases S <;> rfl

/-! ## selectKeep -/

@[simp] theorem pc_selectKeep (s : State) (m : Mode) : (selectKeep m s).pc = s.pc := by
  unfold selectKeep
  split <;> simp
@[simp] theorem mem_selectKeep (s : State) (m : Mode) : (selectKeep m s).mem = s.mem := by
  unfold selectKeep
  split <;> simp
@[simp] theorem port_selectKeep (s : State) (m : Mode) : (selectKeep m s).port = s.port := by
  unfold selectKeep
  split <;> simp
@[simp] theorem fd0_selectKeep (s : State) (m : Mode) : (selectKeep m s).fd0 = s.fd0 := by
  unfold selectKeep
  split <;> simp
@[simp] theorem fd1_selectKeep (s : State) (m : Mode) : (selectKeep m s).fd1 = s.fd1 := by
  unfold selectKeep
  split <;> simp
@[simp] theorem timeSource_selectKeep (s : State) (m : Mode) : (selectKeep m s).timeSource = s.timeSource := by
  unfold selectKeep
  split <;> simp
@[simp] theorem event_selectKeep (s : State) (m : Mode) : (selectKeep m s).event = s.event := by
  unfold selectKeep
  split <;> simp
@[simp] theorem params_selectKeep (s : State) (m : Mode) : (selectKeep m s).params = s.params := by
  unfold selectKeep
  split <;> simp
@[simp] theorem outside_selectKeep (s : State) (m : Mode) : (selectKeep m s).outside = s.outside := by
  unfold selectKeep
  split <;> simp

/-! ## closeKeep -/

@[simp] theorem pc_closeKeep (s : State) : (closeKeep s).pc = s.pc := rfl
@[simp] theorem mem_closeKeep (s : State) : (closeKeep s).mem = s.mem := rfl
@[simp] theorem port_closeKeep (s : State) : (closeKeep s).port = s.port := rfl
@[simp] theorem fd0_closeKeep (s : State) : (closeKeep s).fd0 = s.fd0 := rfl
@[simp] theorem fd1_closeKeep (s : State) : (closeKeep s).fd1 = s.fd1 := rfl
@[simp] theorem timeSource_closeKeep (s : State) : (closeKeep s).timeSource = s.timeSource := rfl
@[simp] theorem event_closeKeep (s : State) : (closeKeep s).event = s.event := rfl
@[simp] theorem params_closeKeep (s : State) : (closeKeep s).params = s.params := rfl
@[simp] theorem outside_closeKeep (s : State) : (closeKeep s).outside = s.outside := rfl

/-! ## reportDivideByZero -/

@[simp] theorem pc_reportDivideByZero (s : State) (S : StackId) : (reportDivideByZero S s).pc = s.pc := by cases S <;> rfl
@[simp] theorem mem_reportDivideByZero (s : State) (S : StackId) : (reportDivideByZero S s).mem = s.mem := by cases S <;> rfl
@[simp] theorem port_reportDivideByZero (s : State) (S : StackId) : (reportDivideByZero S s).port = s.port := by cases S <;> rfl
@[simp] theorem fd0_reportDivideByZero (s : State) (S : StackId) : (reportDivideByZero S s).fd0 = s.fd0 := by cases S <;> rfl
@[simp] theorem fd1_reportDivideByZero (s : State) (S : StackId) : (reportDivideByZero S s).fd1 = s.fd1 := by cases S <;> rfl
@[simp] theorem timeSource_reportDivideByZero (s : State) (S : StackId) : (reportDivideByZero S s).timeSource = s.timeSource := by cases S <;> rfl
@[simp] theorem event_reportDivideByZero (s : State) (S : StackId) : (reportDivideByZero S s).event = s.event := by cases S <;> rfl
@[simp] theorem params_reportDivideByZero (s : State) (S : StackId) : (reportDivideByZero S s).params = s.params := by cases S <;> rfl
@[simp] theorem outside_reportDivideByZero (s : State) (S : StackId) : (reportDivideByZero S s).outside = s.outside := by cases S <;> rfl

/-! ## raiseFault -/

@[simp] theorem pc_raiseFault (s : State) (kind : FaultKind) (S : StackId) : (raiseFault kind S s).pc = s.pc := by cases S <;> rfl
@[simp] theorem mem_raiseFault (s : State) (kind : FaultKind) (S : StackId) : (raiseFault kind S s).mem = s.mem := by cases S <;> rfl
@[simp] theorem port_raiseFault (s : State) (kind : FaultKind) (S : StackId) : (raiseFault kind S s).port = s.port := by cases S <;> rfl
@[simp] theorem fd0_raiseFault (s : State) (kind : FaultKind) (S : StackId) : (raiseFault kind S s).fd0 = s.fd0 := by cases S <;> rfl
@[simp] theorem fd1_raiseFault (s : State) (kind : FaultKind) (S : StackId) : (raiseFault kind S s).fd1 = s.fd1 := by cases S <;> rfl
@[simp] theorem timeSource_raiseFault (s : State) (kind : FaultKind) (S : StackId) : (raiseFault kind S s).timeSource = s.timeSource := by cases S <;> rfl
@[simp] theorem params_raiseFault (s : State) (kind : FaultKind) (S : StackId) : (raiseFault kind S s).params = s.params := by cases S <;> rfl
@[simp] theorem outside_raiseFault (s : State) (kind : FaultKind) (S : StackId) : (raiseFault kind S s).outside = s.outside := by cases S <;> rfl

/-! ## call -/

@[simp] theorem wst_call (s : State) (c : HostCall) : (s.call c).wst = s.wst := rfl
@[simp] theorem rst_call (s : State) (c : HostCall) : (s.call c).rst = s.rst := rfl
@[simp] theorem pc_call (s : State) (c : HostCall) : (s.call c).pc = s.pc := rfl
@[simp] theorem mem_call (s : State) (c : HostCall) : (s.call c).mem = s.mem := rfl
@[simp] theorem port_call (s : State) (c : HostCall) : (s.call c).port = s.port := rfl
@[simp] theorem fd0_call (s : State) (c : HostCall) : (s.call c).fd0 = s.fd0 := rfl
@[simp] theorem fd1_call (s : State) (c : HostCall) : (s.call c).fd1 = s.fd1 := rfl
@[simp] theorem timeSource_call (s : State) (c : HostCall) : (s.call c).timeSource = s.timeSource := rfl
@[simp] theorem event_call (s : State) (c : HostCall) : (s.call c).event = s.event := rfl
@[simp] theorem params_call (s : State) (c : HostCall) : (s.call c).params = s.params := rfl

/-! ## setFiles -/

@[simp] theorem wst_setFiles (s : State) (files : List (Bytes × Bytes)) : (s.setFiles files).wst = s.wst := rfl
@[simp] theorem rst_setFiles (s : State) (files : List (Bytes × Bytes)) : (s.setFiles files).rst = s.rst := rfl
@[simp] theorem pc_setFiles (s : State) (files : List (Bytes × Bytes)) : (s.setFiles files).pc = s.pc := rfl
@[simp] theorem mem_setFiles (s : State) (files : List (Bytes × Bytes)) : (s.setFiles files).mem = s.mem := rfl
@[simp] theorem port_setFiles (s : State) (files : List (Bytes × Bytes)) : (s.setFiles files).port = s.port := rfl
@[simp] theorem fd0_setFiles (s : State) (files : List (Bytes × Bytes)) : (s.setFiles files).fd0 = s.fd0 := rfl
@[simp] theorem fd1_setFiles (s : State) (files : List (Bytes × Bytes)) : (s.setFiles files).fd1 = s.fd1 := rfl
@[simp] theorem timeSource_setFiles (s : State) (files : List (Bytes × Bytes)) : (s.setFiles files).timeSource = s.timeSource := rfl
@[simp] theorem event_setFiles (s : State) (files : List (Bytes × Bytes)) : (s.setFiles files).event = s.event := rfl
@[simp] theorem params_setFiles (s : State) (files : List (Bytes × Bytes)) : (s.setFiles files).params = s.params := rfl

/-! ## setFd -/

@[simp] theorem wst_setFd (s : State) (i : FileId) (f : FileState) : (s.setFd i f).wst = s.wst := by cases i <;> rfl
@[simp] theorem rst_setFd (s : State) (i : FileId) (f : FileState) : (s.setFd i f).rst = s.rst := by cases i <;> rfl
@[simp] theorem pc_setFd (s : State) (i : FileId) (f : FileState) : (s.setFd i f).pc = s.pc := by cases i <;> rfl
@[simp] theorem mem_setFd (s : State) (i : FileId) (f : FileState) : (s.setFd i f).mem = s.mem := by cases i <;> rfl
@[simp] theorem port_setFd (s : State) (i : FileId) (f : FileState) : (s.setFd i f).port = s.port := by cases i <;> rfl
@[simp] theorem timeSource_setFd (s : State) (i : FileId) (f : FileState) : (s.setFd i f).timeSource = s.timeSource := by cases i <;> rfl
@[simp] theorem event_setFd (s : State) (i : FileId) (f : FileState) : (s.setFd i f).event = s.event := by cases i <;> rfl
@[simp] theorem params_setFd (s : State) (i : FileId) (f : FileState) : (s.setFd i f).params = s.params := by cases i <;> rfl
@[simp] theorem outside_setFd (s : State) (i : FileId) (f : FileState) : (s.setFd i f).outside = s.outside := by cases i <;> rfl

/-! ## setResult -/

@[simp] theorem wst_setResult (s : State) (i : FileId) (n : Nat) : (setResult i n s).wst = s.wst := rfl
@[simp] theorem rst_setResult (s : State) (i : FileId) (n : Nat) : (setResult i n s).rst = s.rst := rfl
@[simp] theorem pc_setResult (s : State) (i : FileId) (n : Nat) : (setResult i n s).pc = s.pc := rfl
@[simp] theorem mem_setResult (s : State) (i : FileId) (n : Nat) : (setResult i n s).mem = s.mem := rfl
@[simp] theorem fd0_setResult (s : State) (i : FileId) (n : Nat) : (setResult i n s).fd0 = s.fd0 := rfl
@[simp] theorem fd1_setResult (s : State) (i : FileId) (n : Nat) : (setResult i n s).fd1 = s.fd1 := rfl
@[simp] theorem timeSource_setResult (s : State) (i : FileId) (n : Nat) : (setResult i n s).timeSource = s.timeSource := rfl
@[simp] theorem event_setResult (s : State) (i : FileId) (n : Nat) : (setResult i n s).event = s.event := rfl
@[simp] theorem params_setResult (s : State) (i : FileId) (n : Nat) : (setResult i n s).params = s.params := rfl
@[simp] theorem outside_setResult (s : State) (i : FileId) (n : Nat) : (setResult i n s).outside = s.outside := rfl

/-! ## copyToTarget -/

@[simp] theorem wst_copyToTarget (s : State) (i : FileId) (bytes : Bytes) : (copyToTarget i bytes s).wst = s.wst := rfl
@[simp] theorem rst_copyToTarget (s : State) (i : FileId) (bytes : Bytes) : (copyToTarget i bytes s).rst = s.rst := rfl
@[simp] theorem pc_copyToTarget (s : State) (i : FileId) (bytes : Bytes) : (copyToTarget i bytes s).pc = s.pc := rfl
@[simp] theorem port_copyToTarget (s : State) (i : FileId) (bytes : Bytes) : (copyToTarget i bytes s).port = s.port := rfl
@[simp] theorem fd0_copyToTarget (s : State) (i : FileId) (bytes : Bytes) : (copyToTarget i bytes s).fd0 = s.fd0 := rfl
@[simp] theorem fd1_copyToTarget (s : State) (i : FileId) (bytes : Bytes) : (copyToTarget i bytes s).fd1 = s.fd1 := rfl
@[simp] theorem timeSource_copyToTarget (s : State) (i : FileId) (bytes : Bytes) : (copyToTarget i bytes s).timeSource = s.timeSource := rfl
@[simp] theorem event_copyToTarget (s : State) (i : FileId) (bytes : Bytes) : (copyToTarget i bytes s).event = s.event := rfl
@[simp] theorem params_copyToTarget (s : State) (i : FileId) (bytes : Bytes) : (copyToTarget i bytes s).params = s.params := rfl
@[simp] theorem outside_copyToTarget (s : State) (i : FileId) (bytes : Bytes) : (copyToTarget i bytes s).outside = s.outside := rfl

/-! ## storePort -/

@[simp] theorem wst_storePort (s : State) (p b : Byte) : (storePort p b s).wst = s.wst := rfl
@[simp] theorem rst_storePort (s : State) (p b : Byte) : (storePort p b s).rst = s.rst := rfl
@[simp] theorem pc_storePort (s : State) (p b : Byte) : (storePort p b s).pc = s.pc := rfl
@[simp] theorem mem_storePort (s : State) (p b : Byte) : (storePort p b s).mem = s.mem := rfl
@[simp] theorem fd0_storePort (s : State) (p b : Byte) : (storePort p b s).fd0 = s.fd0 := rfl
@[simp] theorem fd1_storePort (s : State) (p b : Byte) : (storePort p b s).fd1 = s.fd1 := rfl
@[simp] theorem timeSource_storePort (s : State) (p b : Byte) : (storePort p b s).timeSource = s.timeSource := rfl
@[simp] theorem event_storePort (s : State) (p b : Byte) : (storePort p b s).event = s.event := rfl
@[simp] theorem params_storePort (s : State) (p b : Byte) : (storePort p b s).params = s.params := rfl
@[simp] theorem outside_storePort (s : State) (p b : Byte) : (storePort p b s).outside = s.outside := rfl

/-! ## Stacks -/

@[simp] theorem stack_wst (s : State) : s.stack .wst = s.wst := rfl

@[simp] theorem stack_rst (s : State) : s.stack .rst = s.rst := rfl

@[simp] theorem stack_setStack_self (s : State) (S : StackId) (st : Stack) : (s.setStack S st).stack S = st := by
  cases S <;> rfl

theorem stack_setStack_of_ne (s : State) {S T : StackId} (st : Stack) (h : T ≠ S) :
    (s.setStack S st).stack T = s.stack T := by
  cases S <;> cases T <;> first | rfl | exact absurd rfl h

@[simp] theorem setStack_setStack (s : State) (S : StackId) (st st' : Stack) :
    (s.setStack S st).setStack S st' = s.setStack S st' := by
  cases S <;> rfl

@[simp] theorem setStack_stack (s : State) (S : StackId) : s.setStack S (s.stack S) = s := by
  cases S <;> rfl

/-- The source and the destination of an instruction are different stacks (R123). -/
theorem dstOf_ne_srcOf (m : Mode) : dstOf m ≠ srcOf m := by
  unfold dstOf srcOf
  split <;> decide

@[simp] theorem stack_dst_setStack_src (s : State) (m : Mode) (st : Stack) :
    (s.setStack (srcOf m) st).stack (dstOf m) = s.stack (dstOf m) :=
  stack_setStack_of_ne s st (dstOf_ne_srcOf m)

@[simp] theorem stack_src_setStack_dst (s : State) (m : Mode) (st : Stack) :
    (s.setStack (dstOf m) st).stack (srcOf m) = s.stack (srcOf m) :=
  stack_setStack_of_ne s st (dstOf_ne_srcOf m).symm

/-- Writes of the two stacks commute. -/
theorem setStack_comm (s : State) {S T : StackId} (st st' : Stack) (h : T ≠ S) :
    (s.setStack S st).setStack T st' = (s.setStack T st').setStack S st := by
  cases S <;> cases T <;> first | rfl | exact absurd rfl h

@[simp] theorem stack_keepOff_self (s : State) (S : StackId) :
    (keepOff S s).stack S = { s.stack S with keep := none } := by
  cases S <;> rfl

@[simp] theorem wst_closeKeep (s : State) : (closeKeep s).wst = { s.wst with keep := none } := rfl

@[simp] theorem rst_closeKeep (s : State) : (closeKeep s).rst = { s.rst with keep := none } := rfl

theorem stack_closeKeep (s : State) (S : StackId) : (closeKeep s).stack S = { s.stack S with keep := none } := by
  cases S <;> rfl

@[simp] theorem fd_setFd_self (s : State) (i : FileId) (f : FileState) : (s.setFd i f).fd i = f := by
  cases i <;> rfl

theorem fd_setFd_of_ne (s : State) {i j : FileId} (f : FileState) (h : j ≠ i) : (s.setFd i f).fd j = s.fd j := by
  cases i <;> cases j <;> first | rfl | exact absurd rfl h

end Sys2Proof.Machine
end

