-- ==== Sys2Proof/Laws/FileDevice.lean ====
section
/-!
SUPPORT. What a call of the host file interface and a trigger of a file device can change: one lemma for each call,
and for the triggers one structure, `FileFrame`, that every trigger meets.
-/

namespace Sys2Proof.Machine

/-! ## Calls of the host -/

theorem takeStat_snd (s : State) : ∃ o : Outside, (takeStat s).2 = { s with outside := o } ∧
    o.calls = s.outside.calls ∧ o.files = s.outside.files := ⟨_, rfl, rfl, rfl⟩

theorem takeRead_snd (s : State) : ∃ o : Outside, (takeRead s).2 = { s with outside := o } ∧
    o.calls = s.outside.calls ∧ o.files = s.outside.files := ⟨_, rfl, rfl, rfl⟩

theorem takeWrite_snd (s : State) : ∃ o : Outside, (takeWrite s).2 = { s with outside := o } ∧
    o.calls = s.outside.calls ∧ o.files = s.outside.files := ⟨_, rfl, rfl, rfl⟩

/-- `stat` changes only the host side, and no file (R451). -/
theorem hostStat_snd (path : Bytes) (s : State) : ∃ o : Outside, (hostStat path s).2 = { s with outside := o } ∧
    o.calls = s.outside.calls ++ [.fileStat path] ∧ o.files = s.outside.files ∧
    o.monotonic = s.outside.monotonic := ⟨_, rfl, rfl, rfl, rfl⟩

/-- `read` changes only the host side, and no file (R455). -/
theorem hostRead_snd (path : Bytes) (s : State) : ∃ o : Outside, (hostRead path s).2 = { s with outside := o } ∧
    o.calls = s.outside.calls ++ [.fileRead path] ∧ o.files = s.outside.files ∧
    o.monotonic = s.outside.monotonic := ⟨_, rfl, rfl, rfl, rfl⟩

/-- `write` changes only the host side (R454). -/
theorem hostWrite_snd (path data : Bytes) (s : State) : ∃ o : Outside,
    (hostWrite path data s).2 = { s with outside := o } ∧
    o.calls = s.outside.calls ++ [.fileWrite path data] ∧ o.monotonic = s.outside.monotonic := by
  have hp : (takeWrite (s.call (.fileWrite path data))).2.params = s.params := rfl
  unfold hostWrite
  simp only [hp]
  cases s.params.fileIface <;> exact ⟨_, rfl, rfl, rfl⟩

/-- `delete` changes only the host side (R452). -/
theorem hostDelete_eq (path : Bytes) (s : State) : ∃ o : Outside, hostDelete path s = { s with outside := o } ∧
    o.calls = s.outside.calls ++ [.fileDelete path] ∧ o.monotonic = s.outside.monotonic := by
  unfold hostDelete
  cases s.params.fileIface <;> exact ⟨_, rfl, rfl, rfl⟩

/-- `create` changes only the host side (R453). -/
theorem hostCreate_eq (path : Bytes) (s : State) : ∃ o : Outside, hostCreate path s = { s with outside := o } ∧
    o.calls = s.outside.calls ++ [.fileCreate path] ∧ o.monotonic = s.outside.monotonic := by
  unfold hostCreate
  cases s.params.fileIface <;> exact ⟨_, rfl, rfl, rfl⟩

/-- `write` neither reads nor changes a device state (R454). -/
theorem hostWrite_setFd (path data : Bytes) (s : State) (i : FileId) (f : FileState) :
    hostWrite path data (s.setFd i f) = ((hostWrite path data s).1, (hostWrite path data s).2.setFd i f) := by
  unfold hostWrite
  cases hface : s.params.fileIface
  · cases i <;> simp only [takeWrite, State.call, State.setFd, lawfulWrite, hface] <;> rfl
  · cases i <;> simp only [takeWrite, State.call, State.setFd, lawfulWrite, State.setFiles, hface]

/-- `write` reports at most the length of its data, and 0 on an error (R454, D27). -/
theorem count_hostWrite_le (path data : Bytes) (s : State) : (hostWrite path data s).1.getD 0 ≤ data.length := by
  have bound (t : State) (given : Option Nat) : (lawfulWrite t path data given).getD 0 ≤ data.length := by
    unfold lawfulWrite
    split <;> split <;> cases given <;> simp
  unfold hostWrite
  simp only
  split <;> exact bound _ _

/-! ## The virtual file system -/

theorem contentsOf_putFile_self (files : List (Bytes × Bytes)) (path data : Bytes) :
    contentsOf (putFile files path data) path = some data := by
  induction files with
  | nil => simp [putFile, contentsOf]
  | cons f rest ih =>
    unfold putFile
    split
    · simp [contentsOf]
    · next h => simp [contentsOf, h, ih]

theorem contentsOf_putFile_of_ne (files : List (Bytes × Bytes)) {path other : Bytes} (data : Bytes)
    (h : other ≠ path) : contentsOf (putFile files path data) other = contentsOf files other := by
  induction files with
  | nil => simp [putFile, contentsOf, Ne.symm h]
  | cons f rest ih =>
    unfold putFile
    split
    · next hf => simp [contentsOf, hf, Ne.symm h]
    · simp [contentsOf, ih]

theorem contentsOf_removeFile_self (files : List (Bytes × Bytes)) (path : Bytes) :
    contentsOf (removeFile files path) path = none := by
  induction files with
  | nil => rfl
  | cons f rest ih =>
    by_cases h : f.1 = path
    · simpa [removeFile, h] using ih
    · have ih' : contentsOf (rest.filter fun f => !decide (f.1 = path)) path = none := by
        simpa [removeFile] using ih
      simp [removeFile, h, contentsOf, ih']

/-! ## Transfers -/

theorem fileLength_lt (i : FileId) (s : State) : fileLength i s < 65536 := (field16 i 0x0A s).isLt

theorem joinBytes_toNat (h l : Byte) : (joinBytes h l).toNat = h.toNat * 256 + l.toNat := by
  have := l.isLt
  simp only [joinBytes, BitVec.toNat_append]
  rw [Nat.shiftLeft_eq, Nat.mul_comm, ← Nat.two_pow_add_eq_or_of_lt (i := 8) this h.toNat, Nat.mul_comm]

/-- The result port after `setResult` holds the count, and no other port has changed (R434). -/
theorem resultIs_setResult (i : FileId) {n : Nat} (hn : n < 65536) {s t : State} (hp : t.port = s.port) :
    ResultIs i n s (setResult i n t) := by
  have hne : i.base + 0x02 ≠ i.base + 0x03 := by cases i <;> decide
  refine ⟨?_, fun q h2 h3 => ?_⟩
  · simp only [setResult, Page.get_set_self, Page.get_set_of_ne _ _ hne]
    rw [← joinBytes_toNat, joinBytes_hi_lo, BitVec.toNat_ofNat, Nat.mod_eq_of_lt hn]
  · simp only [setResult]
    rw [Page.get_set_of_ne _ _ h3, Page.get_set_of_ne _ _ h2, hp]

/-- Copying bytes to the target, setting the device's state and reporting the bytes' number is a transfer. -/
theorem transferred_copy (i : FileId) (f : FileState) (bytes : Bytes) (o : Outside) {s : State} (hm : s.mem.wf)
    (hlen : bytes.length ≤ fileLength i s) :
    Transferred i f bytes o s
      (setResult i bytes.length ((copyToTarget i bytes { s with outside := o }).setFd i f)) := by
  have hlt := fileLength_lt i s
  refine ⟨by cases i <;> rfl, ?_, fun x hx => ?_, resultIs_setResult i (by omega) (by simp)⟩
  · simp only [mem_setResult, mem_setFd]
    exact Memory.readBytes_writeBytes hm (fileTarget i s) bytes (by omega)
  · simp only [mem_setResult, mem_setFd]
    exact Memory.read_writeBytes_of_outside hm (fileTarget i s) x bytes hx

/-- Reporting 0 and nothing else is a transfer of no bytes. -/
theorem transferred_nothing (i : FileId) (o : Outside) (s : State) :
    Transferred i (s.fd i) [] o s (setResult i 0 { s with outside := o }) :=
  ⟨by cases i <;> rfl, rfl, fun _ _ => rfl, resultIs_setResult i (by decide) rfl⟩

/-- A write of a chunk changes only the result port and the host side; the result is the host's count (R447). -/
theorem writeChunk_eq (i : FileId) (path : Bytes) (s : State) :
    writeChunk i path s =
      { s with
        port := (writeChunk i path s).port
        outside := (hostWrite path (s.mem.readBytes (fileSource i s) (fileLength i s)) s).2.outside } ∧
    ResultIs i ((hostWrite path (s.mem.readBytes (fileSource i s) (fileLength i s)) s).1.getD 0) s
      (writeChunk i path s) := by
  have hlt := fileLength_lt i s
  have hle := count_hostWrite_le path (s.mem.readBytes (fileSource i s) (fileLength i s)) s
  rw [Memory.length_readBytes] at hle
  obtain ⟨o, ho, -⟩ := hostWrite_snd path (s.mem.readBytes (fileSource i s) (fileLength i s)) s
  unfold writeChunk
  generalize hostWrite path (s.mem.readBytes (fileSource i s) (fileLength i s)) s = w at *
  obtain ⟨_ | count, t⟩ := w
  · obtain rfl : t = _ := ho
    exact ⟨rfl, resultIs_setResult i (show 0 < 65536 by decide) rfl⟩
  · obtain rfl : t = _ := ho
    exact ⟨rfl, resultIs_setResult i (show count < 65536 from Nat.lt_of_le_of_lt hle hlt) rfl⟩

theorem length_takeEntries_le (budget : Nat) (queue : List Bytes) : (takeEntries budget queue).1.length ≤ budget := by
  induction queue generalizing budget with
  | nil => simp [takeEntries]
  | cons e rest ih =>
    unfold takeEntries
    split
    · have := ih (budget - e.length)
      simp only [List.length_append]
      omega
    · simp

/-! ## The triggers -/

/-- What a trigger of file device `i` may change: the device's own state, its two result ports, memory and the host
side but for the monotonic clock; a file cursor stays within its bytes (R433, R434). -/
structure FileFrame (i : FileId) (s t : State) : Prop where
  wst        : t.wst = s.wst
  rst        : t.rst = s.rst
  pc         : t.pc = s.pc
  timeSource : t.timeSource = s.timeSource
  event      : t.event = s.event
  params     : t.params = s.params
  monotonic  : t.outside.monotonic = s.outside.monotonic
  other      : ∀ j, j ≠ i → t.fd j = s.fd j
  port       : ∀ q : Byte, q ≠ i.base + 0x02 → q ≠ i.base + 0x03 → t.port.get q = s.port.get q
  mem        : s.mem.wf → t.mem.wf
  cursor     : (∀ bytes cursor, s.fd i = .readingFile bytes cursor → cursor ≤ bytes.length) →
    ∀ bytes cursor, t.fd i = .readingFile bytes cursor → cursor ≤ bytes.length

theorem FileFrame.refl (i : FileId) (s : State) : FileFrame i s s :=
  ⟨rfl, rfl, rfl, rfl, rfl, rfl, rfl, fun _ _ => rfl, fun _ _ _ => rfl, id, id⟩

theorem FileFrame.trans {i : FileId} {s t u : State} (h : FileFrame i s t) (h' : FileFrame i t u) : FileFrame i s u :=
  ⟨h'.wst.trans h.wst, h'.rst.trans h.rst, h'.pc.trans h.pc, h'.timeSource.trans h.timeSource,
    h'.event.trans h.event, h'.params.trans h.params, h'.monotonic.trans h.monotonic, fun j hj => (h'.other j hj).trans (h.other j hj),
    fun q h2 h3 => (h'.port q h2 h3).trans (h.port q h2 h3), fun hm => h'.mem (h.mem hm),
    fun hc => h'.cursor (h.cursor hc)⟩

theorem outside_fileFrame (i : FileId) (s : State) (o : Outside) (ho : o.monotonic = s.outside.monotonic) :
    FileFrame i s { s with outside := o } := by
  constructor <;> first | rfl | exact ho | (cases i <;> exact fun h => h) | exact fun h => h | skip
  · intro j _
    cases j <;> rfl
  · intro q _ _
    rfl

theorem setResult_fileFrame (i : FileId) (n : Nat) (s : State) : FileFrame i s (setResult i n s) := by
  constructor <;> first | rfl | (cases i <;> exact fun h => h) | skip
  · intro j _
    cases j <;> rfl
  · intro q h2 h3
    simp only [setResult, Page.get_set]
    rw [if_neg h3, if_neg h2]

theorem copyToTarget_fileFrame (i : FileId) (bytes : Bytes) (s : State) : FileFrame i s (copyToTarget i bytes s) := by
  constructor <;> first | rfl | (cases i <;> exact fun h => h) | skip
  · intro j _
    cases j <;> rfl
  · intro q _ _
    rfl
  · exact fun h => Memory.writeBytes_wf h _ _

theorem setFd_fileFrame (i : FileId) (f : FileState) (s : State)
    (h : (∀ bytes cursor, s.fd i = .readingFile bytes cursor → cursor ≤ bytes.length) →
      ∀ bytes cursor, f = .readingFile bytes cursor → cursor ≤ bytes.length) : FileFrame i s (s.setFd i f) := by
  constructor <;> first | (cases i <;> rfl) | (cases i <;> exact fun h => h) | skip
  · intro j hj
    exact fd_setFd_of_ne s f hj
  · intro q _ _
    simp
  · simpa using h

theorem length_fileChunk (length : Nat) (bytes : Bytes) (cursor : Nat) :
    (fileChunk length bytes cursor).length = min length (bytes.length - cursor) := by
  simp [fileChunk]

theorem readFileChunk_fileFrame (i : FileId) (bytes : Bytes) (cursor : Nat) (s : State)
    (h : (∀ b c, s.fd i = .readingFile b c → c ≤ b.length) → cursor ≤ bytes.length) :
    FileFrame i s (readFileChunk i bytes cursor s) := by
  refine (copyToTarget_fileFrame i _ s).trans ((setFd_fileFrame i _ _ ?_).trans (setResult_fileFrame i _ _))
  intro hc b c hbc
  obtain ⟨rfl, rfl⟩ := FileState.readingFile.inj hbc
  have := h hc
  rw [length_fileChunk]
  omega

theorem readStatsChunk_fileFrame (i : FileId) (queue : List Bytes) (s : State) :
    FileFrame i s (readStatsChunk i queue s) :=
  (copyToTarget_fileFrame i _ s).trans
    ((setFd_fileFrame i _ _ fun _ _ _ h => by cases h).trans (setResult_fileFrame i _ _))

theorem statPath_fileFrame (i : FileId) (path : Bytes) (s : State) : FileFrame i s (statPath i path s) := by
  obtain ⟨o, ho, -, -, hm⟩ := hostStat_snd path s
  have h := outside_fileFrame i s o hm
  rw [← ho] at h
  unfold statPath
  split
  · next line t heq =>
    rw [heq] at h
    split
    · exact h.trans ((copyToTarget_fileFrame i _ _).trans (setResult_fileFrame i _ _))
    · exact h.trans (setResult_fileFrame i _ _)
  · next t heq =>
    rw [heq] at h
    exact h.trans (setResult_fileFrame i _ _)

theorem readOpen_fileFrame (i : FileId) (path : Bytes) (s : State) : FileFrame i s (readOpen i path s) := by
  obtain ⟨o, ho, -, -, hm⟩ := hostRead_snd path s
  have h := outside_fileFrame i s o hm
  rw [← ho] at h
  unfold readOpen
  split
  · next t heq =>
    rw [heq] at h
    exact h.trans (setResult_fileFrame i _ _)
  · next bytes t heq =>
    rw [heq] at h
    exact h.trans (readFileChunk_fileFrame i bytes 0 t fun _ => Nat.zero_le _)
  · next lines t heq =>
    rw [heq] at h
    exact h.trans (readStatsChunk_fileFrame i lines t)

theorem writeChunk_fileFrame (i : FileId) (path : Bytes) (s : State) : FileFrame i s (writeChunk i path s) := by
  obtain ⟨o, ho, -, hm⟩ := hostWrite_snd path (s.mem.readBytes (fileSource i s) (fileLength i s)) s
  have h := outside_fileFrame i s o hm
  rw [← ho] at h
  unfold writeChunk
  split
  · next count t heq =>
    rw [heq] at h
    exact h.trans (setResult_fileFrame i _ _)
  · next t heq =>
    rw [heq] at h
    exact h.trans (setResult_fileFrame i _ _)

theorem writeOpen_fileFrame (i : FileId) (path : Bytes) (s : State) : FileFrame i s (writeOpen i path s) := by
  unfold writeOpen
  split
  · exact setResult_fileFrame i _ _
  · split
    · exact (setFd_fileFrame i _ s fun _ _ _ h => by cases h).trans (writeChunk_fileFrame i path _)
    · obtain ⟨o, ho, -, hm⟩ := hostCreate_eq path s
      rw [ho]
      exact (outside_fileFrame i s o hm).trans
        ((setFd_fileFrame i _ _ fun _ _ _ h => by cases h).trans (writeChunk_fileFrame i path _))

theorem crossTrigger_fileFrame {i : FileId} {s t : State} (h : crossTrigger i s = .ok t) : FileFrame i s t := by
  unfold crossTrigger at h
  split at h
  · cases h
    exact .refl i _
  · cases h
    exact setResult_fileFrame i _ _
  · cases h

theorem withPath_ok {i : FileId} {s t : State} {act : Bytes → State} (h : withPath i s act = .ok t) :
    ∃ path, filePath i s = some path ∧ t = act path := by
  unfold withPath at h
  split at h
  · cases h
  · next path hp => exact ⟨path, hp, (Except.ok.inj h).symm⟩

/-- All a trigger of a file device can change (R432 to R447). -/
theorem fileTrigger_fileFrame {i : FileId} {index : BitVec 4} {s t : State} (h : fileTrigger i index s = .ok t) :
    FileFrame i s t := by
  unfold fileTrigger at h
  split at h
  · obtain ⟨path, -, rfl⟩ := withPath_ok h
    exact statPath_fileFrame i path s
  · obtain ⟨path, -, rfl⟩ := withPath_ok h
    obtain ⟨o, ho, -, hm⟩ := hostDelete_eq path s
    exact ho ▸ outside_fileFrame i s o hm
  · cases h
    exact setFd_fileFrame i _ s fun _ _ _ h => by cases h
  · unfold fileRead at h
    split at h
    · obtain ⟨path, -, rfl⟩ := withPath_ok h
      exact readOpen_fileFrame i path s
    · next bytes cursor hfd =>
      cases h
      exact readFileChunk_fileFrame i bytes cursor s fun hc => hc _ _ hfd
    · cases h
      exact readStatsChunk_fileFrame i _ s
    · exact crossTrigger_fileFrame h
  · unfold fileWrite at h
    split at h
    · obtain ⟨path, -, rfl⟩ := withPath_ok h
      exact writeOpen_fileFrame i path s
    · cases h
      exact writeChunk_fileFrame i _ s
    · exact crossTrigger_fileFrame h
    · exact crossTrigger_fileFrame h
  · cases h
    exact .refl i _

end Sys2Proof.Machine
end

