-- ==== Sys2Proof/Laws/Bus.lean ====
section
/-!
SUPPORT. What the device bus can change: input touches only the host side, and output, whatever its port, only the
ports of the slots it names, the file devices, memory and the host side (R381 to R400).
-/

namespace Sys2Proof.Machine

/-! ## Input -/

theorem takeClock_snd (s : State) : ∃ o : Outside, (takeClock s).2 = { s with outside := o } ∧
    o.calls = s.outside.calls ∧ s.outside.monotonic ≤ o.monotonic := ⟨_, rfl, rfl, Nat.le_add_right _ _⟩

theorem takeUndefined_snd (s : State) : ∃ o : Outside, (takeUndefined s).2 = { s with outside := o } ∧
    o.calls = s.outside.calls ∧ s.outside.monotonic ≤ o.monotonic := ⟨_, rfl, rfl, le_refl _⟩

/-- A query of the datetime device changes only the host side, is one call, and never turns the monotonic clock back
(R394, R397). -/
theorem hostClock_snd (index : BitVec 4) (s : State) : ∃ o : Outside, (hostClock index s).2 = { s with outside := o } ∧
    o.calls = s.outside.calls ++ [.clock index] ∧ s.outside.monotonic ≤ o.monotonic := by
  unfold hostClock
  simp only
  split
  · exact takeClock_snd (s.call (.clock index))
  · exact takeUndefined_snd (s.call (.clock index))

/-- Input of a port changes only the host side, and never turns the monotonic clock back (R381). -/
theorem devIn_snd (p : Byte) (s : State) : ∃ o : Outside, (devIn p s).2 = { s with outside := o } ∧
    s.outside.monotonic ≤ o.monotonic := by
  unfold devIn
  split
  · obtain ⟨o, ho, -, hm⟩ := hostClock_snd (localOf p) s
    exact ⟨o, ho, hm⟩
  · exact ⟨s.outside, rfl, le_refl _⟩

/-- Input of a port outside the datetime slot is the stored byte, and changes nothing (R381). -/
theorem devIn_of_stored {p : Byte} (h : slotOf p ≠ 0xC) (s : State) : devIn p s = (s.port.get p, s) := by
  unfold devIn
  rw [if_neg h]

/-- Input of DEI changes only the host side, and never turns the monotonic clock back (R310). -/
theorem devInW_snd (p : Byte) (w : Width) (s : State) : ∃ o : Outside, (devInW p w s).2 = { s with outside := o } ∧
    s.outside.monotonic ≤ o.monotonic := by
  cases w with
  | byte => exact devIn_snd p s
  | short =>
    obtain ⟨o, ho, hm⟩ := devIn_snd p s
    obtain ⟨o', ho', hm'⟩ := devIn_snd (p + 1) (devIn p s).2
    rw [ho] at hm'
    refine ⟨o', ?_, hm.trans hm'⟩
    show (devIn (p + 1) (devIn p s).2).2 = _
    rw [ho', ho]

/-! ## Output -/

/-- What the output of DEO may change: every stack, pc, parameter and the monotonic clock are as before, and a port
outside the slots named too; memory keeps its form and the file cursors stay within their bytes. -/
structure BusFrame (slots : List (BitVec 4)) (s t : State) : Prop where
  wst        : t.wst = s.wst
  rst        : t.rst = s.rst
  pc         : t.pc = s.pc
  timeSource : t.timeSource = s.timeSource
  event      : t.event = s.event
  params     : t.params = s.params
  monotonic  : t.outside.monotonic = s.outside.monotonic
  port       : ∀ q : Byte, slotOf q ∉ slots → t.port.get q = s.port.get q
  fd0        : 0xA ∉ slots → t.fd0 = s.fd0
  fd1        : 0xB ∉ slots → t.fd1 = s.fd1
  mem        : s.mem.wf → t.mem.wf
  cursor0    : (∀ bytes cursor, s.fd0 = .readingFile bytes cursor → cursor ≤ bytes.length) →
    ∀ bytes cursor, t.fd0 = .readingFile bytes cursor → cursor ≤ bytes.length
  cursor1    : (∀ bytes cursor, s.fd1 = .readingFile bytes cursor → cursor ≤ bytes.length) →
    ∀ bytes cursor, t.fd1 = .readingFile bytes cursor → cursor ≤ bytes.length

theorem BusFrame.refl (slots : List (BitVec 4)) (s : State) : BusFrame slots s s :=
  ⟨rfl, rfl, rfl, rfl, rfl, rfl, rfl, fun _ _ => rfl, fun _ => rfl, fun _ => rfl, id, id, id⟩

theorem BusFrame.trans {slots : List (BitVec 4)} {s t u : State} (h : BusFrame slots s t) (h' : BusFrame slots t u) :
    BusFrame slots s u :=
  ⟨h'.wst.trans h.wst, h'.rst.trans h.rst, h'.pc.trans h.pc, h'.timeSource.trans h.timeSource,
    h'.event.trans h.event, h'.params.trans h.params, h'.monotonic.trans h.monotonic, fun q hq => (h'.port q hq).trans (h.port q hq),
    fun ha => (h'.fd0 ha).trans (h.fd0 ha), fun hb => (h'.fd1 hb).trans (h.fd1 hb), fun hm => h'.mem (h.mem hm),
    fun hc => h'.cursor0 (h.cursor0 hc), fun hc => h'.cursor1 (h.cursor1 hc)⟩

theorem BusFrame.mono {slots slots' : List (BitVec 4)} {s t : State} (h : BusFrame slots s t)
    (hsub : ∀ x, x ∈ slots → x ∈ slots') : BusFrame slots' s t :=
  ⟨h.wst, h.rst, h.pc, h.timeSource, h.event, h.params, h.monotonic, fun q hq => h.port q fun hc => hq (hsub _ hc),
    fun ha => h.fd0 fun hc => ha (hsub _ hc), fun hb => h.fd1 fun hc => hb (hsub _ hc), h.mem, h.cursor0, h.cursor1⟩

theorem storePort_busFrame (p b : Byte) (s : State) : BusFrame [slotOf p] s (storePort p b s) := by
  refine ⟨rfl, rfl, rfl, rfl, rfl, rfl, rfl, fun q hq => ?_, fun _ => rfl, fun _ => rfl, id, id, id⟩
  refine Page.get_set_of_ne _ _ ?_
  rintro rfl
  exact hq (by simp)

theorem call_busFrame (slots : List (BitVec 4)) (c : HostCall) (s : State) : BusFrame slots s (s.call c) :=
  ⟨rfl, rfl, rfl, rfl, rfl, rfl, rfl, fun _ _ => rfl, fun _ => rfl, fun _ => rfl, id, id, id⟩

theorem slotOf_result (i : FileId) : slotOf (i.base + 0x02) = slotOf i.base ∧ slotOf (i.base + 0x03) = slotOf i.base := by
  cases i <;> decide

theorem FileFrame.busFrame {i : FileId} {s t : State} (h : FileFrame i s t) : BusFrame [slotOf i.base] s t := by
  refine ⟨h.wst, h.rst, h.pc, h.timeSource, h.event, h.params, h.monotonic, fun q hq => h.port q ?_ ?_, fun ha => ?_, fun hb => ?_,
    h.mem, ?_, ?_⟩
  · rintro rfl
    exact hq (List.mem_singleton.2 (slotOf_result i).1)
  · rintro rfl
    exact hq (List.mem_singleton.2 (slotOf_result i).2)
  · cases i with
    | file0 => exact absurd (by decide) ha
    | file1 => exact h.other .file0 (by decide)
  · cases i with
    | file0 => exact h.other .file1 (by decide)
    | file1 => exact absurd (by decide) hb
  · cases i with
    | file0 => exact h.cursor
    | file1 =>
      have : t.fd0 = s.fd0 := h.other .file0 (by decide)
      rw [this]
      exact id
  · cases i with
    | file0 =>
      have : t.fd1 = s.fd1 := h.other .file1 (by decide)
      rw [this]
      exact id
    | file1 => exact h.cursor

/-- A halt code a device gives is the nonzero byte of port 0x0F (R386). -/
def HaltIn (t : State) (halt : Option Byte) : Prop := ∀ c, halt = some c → c ≠ 0 ∧ t.port.get 0x0F = c

theorem haltIn_none (t : State) : HaltIn t none := by
  intro c h
  cases h

/-- All a trigger can do: be refused, or go on from a state of its frame with a halt code or none (R384). -/
theorem trigger_cases (p : Byte) (s : State) :
    (∃ r, ∀ next, trigger p s next = .refused r) ∨
    ∃ halt t, (∀ next, trigger p s next = next halt t) ∧ BusFrame [slotOf p] s t ∧ HaltIn t halt := by
  have file (i : FileId) (hi : slotOf p = slotOf i.base) :
      (∃ r, ∀ next, fileSlotTrigger i (localOf p) s next = .refused r) ∨
      ∃ halt t, (∀ next, fileSlotTrigger i (localOf p) s next = next halt t) ∧ BusFrame [slotOf p] s t ∧
        HaltIn t halt := by
    unfold fileSlotTrigger
    cases h : fileTrigger i (localOf p) s with
    | error r => exact .inl ⟨r, fun _ => rfl⟩
    | ok t => exact .inr ⟨none, t, fun _ => rfl, hi ▸ (fileTrigger_fileFrame h).busFrame, haltIn_none t⟩
  unfold trigger
  split
  · right
    unfold systemTrigger
    split
    · split
      · exact ⟨none, s, fun _ => rfl, .refl _ s, haltIn_none s⟩
      · exact ⟨none, _, fun _ => rfl, call_busFrame _ _ s, haltIn_none _⟩
    · split
      · split
        · exact ⟨none, s, fun _ => rfl, .refl _ s, haltIn_none s⟩
        · next h =>
          refine ⟨_, s, fun _ => rfl, .refl _ s, fun c hc => ?_⟩
          cases hc
          exact ⟨h, rfl⟩
      · exact ⟨none, s, fun _ => rfl, .refl _ s, haltIn_none s⟩
  · split
    · right
      unfold consoleTrigger
      split
      · exact ⟨none, _, fun _ => rfl, call_busFrame _ _ s, haltIn_none _⟩
      · split
        · exact ⟨none, _, fun _ => rfl, call_busFrame _ _ s, haltIn_none _⟩
        · exact ⟨none, s, fun _ => rfl, .refl _ s, haltIn_none s⟩
    · split
      · next h => exact file .file0 (h.trans (by decide))
      · split
        · next h => exact file .file1 (h.trans (by decide))
        · exact .inr ⟨none, s, fun _ => rfl, .refl _ s, haltIn_none s⟩

/-- All the output of DEO can do (R311, R382, R383). -/
theorem devOutW_cases (p : Byte) (w : Width) (v : BitVec w.bits) (s : State) :
    (∃ r, ∀ next, devOutW p w v s next = .refused r) ∨
    ∃ halt t, (∀ next, devOutW p w v s next = next halt t) ∧
      BusFrame (match w with | .byte => [slotOf p] | .short => [slotOf p, slotOf (p + 1)]) s t ∧ HaltIn t halt := by
  cases w with
  | byte =>
    rcases trigger_cases p (storePort p v s) with ⟨r, hr⟩ | ⟨halt, t, ht, hf, hh⟩
    · exact .inl ⟨r, hr⟩
    · exact .inr ⟨halt, t, ht, (storePort_busFrame p v s).trans hf, hh⟩
  | short =>
    have stored : BusFrame [slotOf p, slotOf (p + 1)] s (storePort (p + 1) (loByte v) (storePort p (hiByte v) s)) :=
      ((storePort_busFrame p (hiByte v) s).mono (by simp)).trans
        ((storePort_busFrame (p + 1) (loByte v) _).mono (by simp))
    rcases trigger_cases p (storePort (p + 1) (loByte v) (storePort p (hiByte v) s)) with
      ⟨r, hr⟩ | ⟨halt, t, ht, hf, hh⟩
    · exact .inl ⟨r, fun next => hr _⟩
    · have first := stored.trans (hf.mono (slots' := [slotOf p, slotOf (p + 1)]) (by simp))
      cases halt with
      | some c => exact .inr ⟨some c, t, fun next => ht _, first, hh⟩
      | none =>
        rcases trigger_cases (p + 1) t with ⟨r, hr⟩ | ⟨halt, u, hu, hf', hh'⟩
        · exact .inl ⟨r, fun next => (ht _).trans (hr next)⟩
        · exact .inr ⟨halt, u, fun next => (ht _).trans (hu next), first.trans (hf'.mono (by simp)), hh'⟩

end Sys2Proof.Machine
end

