-- ==== Sys2Proof/Laws/Exec.lean ====
section
/-!
SUPPORT. The meaning of an instruction by its base operation and its mode: the eight instructions of a base operation
share one lemma, and every instruction is BRK, a no-op, a LIT form or a form of a base operation.
-/

namespace Sys2Proof

namespace Machine

/-- The meaning of a base operation, for every mode. -/
def baseOp : Base → Mode → State → Result
  | .inc => incOp | .pop => popOp | .nip => nipOp | .swp => swpOp
  | .rot => rotOp | .dup => dupOp | .ovr => ovrOp | .equ => equOp
  | .neq => neqOp | .gth => gthOp | .lth => lthOp | .jmp => jmpOp
  | .jcn => jcnOp | .jsr => jsrOp | .sth => sthOp | .ldz => ldzOp
  | .stz => stzOp | .ldr => ldrOp | .str => strOp | .lda => ldaOp
  | .sta => staOp | .dei => deiOp | .deo => deoOp | .add => addOp
  | .sub => subOp | .mul => mulOp | .div => divOp | .and => andOp
  | .ora => oraOp | .eor => eorOp | .sft => sftOp

/-- A form of a base operation means what its base operation means in that mode. -/
theorem exec_form (base : Base) (m : Mode) (s : State) : exec (.form base m) s = baseOp base m s := by
  obtain ⟨_ | _, _ | _, _ | _⟩ := m <;> cases base <;> rfl

end Machine

theorem Instr.base_form (base : Base) (m : Mode) : (Instr.form base m).base = some base := by
  obtain ⟨_ | _, _ | _, _ | _⟩ := m <;> cases base <;> rfl

theorem Instr.immediate_form (base : Base) (m : Mode) : (Instr.form base m).immediate = [] := by
  obtain ⟨_ | _, _ | _, _ | _⟩ := m <;> cases base <;> rfl

theorem Instr.length_form (base : Base) (m : Mode) : (Instr.form base m).length = 1 := by
  obtain ⟨_ | _, _ | _, _ | _⟩ := m <;> cases base <;> rfl

/-- The instructions outside the forms of the base operations (R125 to R127). -/
inductive Instr.Special : Instr → Prop
  | brk : Special .brk
  | nop20 : Special .nop20
  | nop40 : Special .nop40
  | nop60 : Special .nop60
  | lit (b : Byte) : Special (.lit b)
  | lit2 (v : Word) : Special (.lit2 v)
  | litr (b : Byte) : Special (.litr b)
  | lit2r (v : Word) : Special (.lit2r v)

/-- Every instruction is special or a form of a base operation. -/
theorem Instr.special_or_form (i : Instr) : i.Special ∨ ∃ base m, i = .form base m := by
  have h : i.Special ∨ i.base.map (fun base => Instr.form base (modeOf i.opcode)) = some i := by
    cases i <;> first | exact .inl (by constructor) | exact .inr rfl
  rcases h with h | h
  · exact .inl h
  · obtain ⟨base, -, hb⟩ := Option.map_eq_some_iff.1 h
    exact .inr ⟨base, _, hb.symm⟩

/-- What an opcode byte decodes to is special or a form. -/
theorem decodeOp_cases (op b1 b2 : Byte) :
    (decodeOp op b1 b2).Special ∨ ∃ base m, decodeOp op b1 b2 = .form base m := by
  unfold decodeOp
  split
  · exact .inr ⟨_, _, rfl⟩
  · left
    split <;> constructor

end Sys2Proof
end

