-- ==== Sys2Proof/Laws/Stack.lean ====
section
/-!
SUPPORT. What the stack primitives do to the bytes on a stack. An instruction pops first, reading its operands from
the top down (`Popping`), and then pushes (`Stack.HoldsOver`); one lemma for each step says all that it does.
-/

namespace Sys2Proof.Machine

/-! ## Bytes of a stack -/

@[simp] theorem get_poke (st : Stack) (i b k : Byte) :
    (st.poke i b).page.get k = if k = i then b else st.page.get k := Page.get_set _ _ _ _

@[simp] theorem keep_poke (st : Stack) (i b : Byte) : (st.poke i b).keep = st.keep := rfl

@[simp] theorem ptr_poke_ptr (st : Stack) (b : Byte) : (st.poke 255#8 b).ptr = b := by simp [Stack.ptr]

theorem ptr_poke_of_ne (st : Stack) {i : Byte} (b : Byte) (h : i ≠ 255) : (st.poke i b).ptr = st.ptr := by
  rw [Stack.ptr, get_poke, if_neg (Ne.symm h), Stack.ptr]

@[simp] theorem ptr_poke_err (st : Stack) (b : Byte) : (st.poke 254#8 b).ptr = st.ptr :=
  ptr_poke_of_ne st b (by decide)

@[simp] theorem err_poke_err (st : Stack) (b : Byte) : (st.poke 254#8 b).err = b := by simp [Stack.err]

@[simp] theorem err_poke_ptr (st : Stack) (b : Byte) : (st.poke 255#8 b).err = st.err := by simp [Stack.err]

@[simp] theorem ptr_with_keep (st : Stack) (k : Option Byte) : Stack.ptr { st with keep := k } = st.ptr := rfl

@[simp] theorem err_with_keep (st : Stack) (k : Option Byte) : Stack.err { st with keep := k } = st.err := rfl

@[simp] theorem items_with_keep (st : Stack) (k : Option Byte) : Stack.items { st with keep := k } = st.items := rfl

/-- The bytes below a pointer, bottom to top. -/
def Stack.below (st : Stack) (p : Byte) : List Byte :=
  (List.range p.toNat).map fun k => st.page.get (BitVec.ofNat 8 k)

theorem items_eq_below (st : Stack) : st.items = st.below st.ptr := rfl

@[simp] theorem length_below (st : Stack) (p : Byte) : (st.below p).length = p.toNat := by simp [Stack.below]

@[simp] theorem length_items (st : Stack) : st.items.length = st.ptr.toNat := by simp [Stack.items]

theorem getElem_below (st : Stack) (p : Byte) (k : Nat) (h : k < (st.below p).length) :
    (st.below p)[k] = st.page.get (BitVec.ofNat 8 k) := by
  simp [Stack.below]

theorem below_congr {st st' : Stack} {p : Byte} (h : ∀ k, k < p → st'.page.get k = st.page.get k) :
    st'.below p = st.below p := by
  apply List.map_congr_left
  intro k hk
  have hk' : k < p.toNat := by simpa using hk
  apply h
  rw [BitVec.lt_def, BitVec.toNat_ofNat]
  have := p.isLt
  omega

theorem below_succ (st : Stack) {p : Byte} (h : p ≠ 255) : st.below (p + 1) = st.below p ++ [st.page.get p] := by
  have hp := p.isLt
  have hne : p.toNat ≠ 255 := fun hc => h (BitVec.eq_of_toNat_eq hc)
  have h1 : (p + 1).toNat = p.toNat + 1 := by
    rw [BitVec.toNat_add, show (1 : Byte).toNat = 1 from rfl]
    omega
  rw [Stack.below, h1, List.range_succ, List.map_append, List.map_singleton, Stack.below, BitVec.ofNat_toNat,
    BitVec.setWidth_eq]

/-- The bytes that a pop can reach: below the active pointer (R37). -/
def Stack.activeItems (st : Stack) : List Byte := st.below st.active

@[simp] theorem length_activeItems (st : Stack) : st.activeItems.length = st.active.toNat := by
  simp [Stack.activeItems]

theorem length_valueBytes (w : Width) (v : BitVec w.bits) : (valueBytes w v).length = w.bytes := by
  cases w <;> rfl

/-! ## Pops -/

/-- `st` is the stack `st0` in the middle of an instruction's pops, with the bytes `xs` still to pop. In keep mode
the real pointer has not moved; otherwise no keep pointer is set. -/
structure Popping (keep : Bool) (st0 st : Stack) (xs : List Byte) : Prop where
  page  : ∀ k, k ≠ 255 → st.page.get k = st0.page.get k
  items : st.activeItems = xs
  mode  : st.keep.isSome = keep
  ptr   : keep = true → st.ptr = st0.ptr

/-- The keep selection begins the pops: all the bytes of the stack are there to pop (R49, R50, R164). -/
theorem selectKeep_popping (m : Mode) (s : State) :
    ∃ st, selectKeep m s = s.setStack (srcOf m) st ∧
      Popping m.keep (s.stack (srcOf m)) st (s.stack (srcOf m)).items := by
  unfold selectKeep
  cases h : m.keep
  · exact ⟨_, rfl, fun _ _ => rfl, rfl, rfl, by simp⟩
  · exact ⟨_, rfl, fun _ _ => rfl, rfl, rfl, fun _ => rfl⟩

theorem byte_sub_one_lt {a : Byte} (h : a ≠ 0) : (a - 1).toNat + 1 = a.toNat := by
  have h0 : a.toNat ≠ 0 := fun hc => h (BitVec.eq_of_toNat_eq hc)
  have := a.isLt
  rw [BitVec.toNat_sub, show (1 : Byte).toNat = 1 from rfl]
  omega

theorem active_setActive (st : Stack) (p : Byte) : (st.setActive p).active = p := by
  unfold Stack.setActive Stack.active
  cases h : st.keep <;> simp [h]

theorem get_setActive (st : Stack) (p k : Byte) (h : k ≠ 255) :
    (st.setActive p).page.get k = st.page.get k := by
  unfold Stack.setActive
  cases st.keep
  · exact (get_poke _ _ _ _).trans (if_neg h)
  · rfl

@[simp] theorem isSome_keep_setActive (st : Stack) (p : Byte) :
    (st.setActive p).keep.isSome = st.keep.isSome := by
  unfold Stack.setActive
  cases h : st.keep <;> simp [h]

theorem ptr_setActive_of_keep (st : Stack) (p : Byte) (h : st.keep.isSome = true) :
    (st.setActive p).ptr = st.ptr := by
  unfold Stack.setActive
  cases hk : st.keep
  · simp [hk] at h
  · rfl

theorem setActive_items (st : Stack) {p : Byte} (h : p ≤ st.active) :
    (st.setActive p).activeItems = st.activeItems.take p.toNat := by
  have hp : p.toNat ≤ st.active.toNat := h
  have hlt := st.active.isLt
  unfold Stack.activeItems
  rw [active_setActive]
  apply List.ext_getElem
  · simp [hp]
  · intro k h1 h2
    have hk : k < p.toNat := by simpa using h1
    rw [List.getElem_take, getElem_below, getElem_below]
    apply get_setActive
    intro hc
    have := congrArg BitVec.toNat hc
    rw [BitVec.toNat_ofNat, show (255 : Byte).toNat = 255 from rfl] at this
    omega

theorem Popping.setActive {keep : Bool} {st0 st : Stack} {xs ys : List Byte} (h : Popping keep st0 st (xs ++ ys))
    {p : Byte} (hp : p.toNat = xs.length) : Popping keep st0 (st.setActive p) xs := by
  have hlen := congrArg List.length h.items
  simp only [length_activeItems, List.length_append] at hlen
  refine ⟨fun k hk => ?_, ?_, ?_, fun hk => ?_⟩
  · rw [get_setActive _ _ _ hk, h.page k hk]
  · rw [setActive_items _ (BitVec.le_def.2 (by omega)), h.items, hp, List.take_left]
  · rw [isSome_keep_setActive, h.mode]
  · rw [ptr_setActive_of_keep _ _ (h.mode.trans hk), h.ptr hk]

theorem Popping.get_at {keep : Bool} {st0 st : Stack} {xs : List Byte} (h : Popping keep st0 st xs)
    (p : Byte) (n : Nat) (hpn : p.toNat = n) (hn : n < xs.length) : st.page.get p = xs[n] := by
  have hb : st.below st.active = xs := h.items
  have hg := getElem_below st st.active n (by rw [hb]; exact hn)
  simp only [hb] at hg
  rw [hg, ← hpn, BitVec.ofNat_toNat, BitVec.setWidth_eq]

/-- A pop of a width whose bytes are there gives their big-endian value (R46, R47, R48). -/
theorem pop_popping {keep : Bool} {st0 : Stack} {S : StackId} {s : State} {xs : List Byte} (w : Width)
    (v : BitVec w.bits) (h : Popping keep st0 (s.stack S) (xs ++ valueBytes w v)) :
    ∃ st, Popping keep st0 st xs ∧ ∀ next, pop S w s next = next v (s.setStack S st) := by
  have hlen := congrArg List.length h.items
  simp only [length_activeItems, List.length_append, length_valueBytes] at hlen
  have hlt := (s.stack S).active.isLt
  cases w with
  | byte =>
    simp only [Width.bytes] at hlen
    have h0 : (s.stack S).active ≠ 0 := by
      intro hc
      rw [hc, show (0 : Byte).toNat = 0 from rfl] at hlen
      omega
    have h1 := byte_sub_one_lt h0
    refine ⟨_, h.setActive (p := (s.stack S).active - 1) (by omega), fun next => ?_⟩
    have hv : (s.stack S).page.get ((s.stack S).active - 1) = v := by
      rw [h.get_at _ xs.length (by omega) (by simp [valueBytes])]
      simp [valueBytes]
    simp only [pop, pop8, h0, if_false, hv]
  | short =>
    simp only [Width.bytes] at hlen
    have h2 : ((s.stack S).active - 2).toNat = xs.length := by
      rw [BitVec.toNat_sub, show (2 : Byte).toNat = 2 from rfl]
      omega
    have h1 : ((s.stack S).active - 1).toNat = xs.length + 1 := by
      rw [BitVec.toNat_sub, show (1 : Byte).toNat = 1 from rfl]
      omega
    have hge : ¬ (s.stack S).active < 2 := by
      rw [BitVec.lt_def, show (2 : Byte).toNat = 2 from rfl]
      omega
    refine ⟨_, h.setActive (p := (s.stack S).active - 2) h2, fun next => ?_⟩
    have hhi : (s.stack S).page.get ((s.stack S).active - 2) = hiByte v := by
      rw [h.get_at _ xs.length h2 (by simp [valueBytes])]
      simp [valueBytes]
    have hlo : (s.stack S).page.get ((s.stack S).active - 1) = loByte v := by
      rw [h.get_at _ (xs.length + 1) h1 (by simp [valueBytes])]
      simp [valueBytes]
    simp only [pop, pop16, hge, if_false, hhi, hlo]
    exact congrArg (fun x => next x _) (joinBytes_hi_lo v)

theorem pop8_popping {keep : Bool} {st0 : Stack} {S : StackId} {s : State} {xs : List Byte} (v : Byte)
    (h : Popping keep st0 (s.stack S) (xs ++ [v])) :
    ∃ st, Popping keep st0 st xs ∧ ∀ next, pop8 S s next = next v (s.setStack S st) :=
  pop_popping (w := .byte) v h

theorem pop16_popping {keep : Bool} {st0 : Stack} {S : StackId} {s : State} {xs : List Byte} (v : Word)
    (h : Popping keep st0 (s.stack S) (xs ++ [hiByte v, loByte v])) :
    ∃ st, Popping keep st0 st xs ∧ ∀ next, pop16 S s next = next v (s.setStack S st) :=
  pop_popping (w := .short) v h

/-- The value of a width whose bytes are the last of a list that is long enough. -/
theorem exists_valueBytes (w : Width) (xs : List Byte) (h : w.bytes ≤ xs.length) :
    ∃ (ys : List Byte) (v : BitVec w.bits), xs = ys ++ valueBytes w v := by
  cases w with
  | byte =>
    simp only [Width.bytes] at h
    have hne : xs ≠ [] := by
      rintro rfl
      simp at h
    exact ⟨xs.dropLast, xs.getLast hne, (List.dropLast_append_getLast hne).symm⟩
  | short =>
    simp only [Width.bytes] at h
    have hne : xs ≠ [] := by
      rintro rfl
      simp at h
    have hne2 : xs.dropLast ≠ [] := by
      intro hc
      have := congrArg List.length hc
      simp at this
      omega
    refine ⟨xs.dropLast.dropLast, joinBytes (xs.dropLast.getLast hne2) (xs.getLast hne), ?_⟩
    simp only [valueBytes, hiByte_joinBytes, loByte_joinBytes]
    conv_lhs => rw [← List.dropLast_append_getLast hne, ← List.dropLast_append_getLast hne2]
    simp

/-- A pop of a width whose bytes are not there faults with Underflow (R46, R47). -/
theorem pop_underflow (S : StackId) (w : Width) (s : State) (h : (s.stack S).active.toNat < w.bytes)
    (next : BitVec w.bits → State → Result) : pop S w s next = .next (raiseFault .underflow S s) := by
  cases w with
  | byte =>
    have : (s.stack S).active = 0 := by
      apply BitVec.eq_of_toNat_eq
      simp only [Width.bytes] at h
      show _ = 0
      omega
    simp only [pop, pop8, this, if_true]
  | short =>
    have : (s.stack S).active < 2 := BitVec.lt_def.2 h
    simp only [pop, pop16, this, if_true]

/-- All a pop can do: fault with Underflow, or go on with a value and a stack whose active pointer is lower. -/
theorem pop_cases (S : StackId) (w : Width) (s : State) (next : BitVec w.bits → State → Result) :
    pop S w s next = .next (raiseFault .underflow S s) ∨
    ∃ (v : BitVec w.bits) (p : Byte), p.toNat + w.bytes = (s.stack S).active.toNat ∧
      pop S w s next = next v (s.setStack S ((s.stack S).setActive p)) := by
  by_cases h : (s.stack S).active.toNat < w.bytes
  · exact .inl (pop_underflow S w s h next)
  · right
    cases w with
    | byte =>
      have h0 : (s.stack S).active ≠ 0 := by
        intro hc
        rw [hc] at h
        exact h (by decide)
      exact ⟨(s.stack S).page.get ((s.stack S).active - 1), _, byte_sub_one_lt h0, by simp only [pop, pop8, h0, if_false]⟩
    | short =>
      have hge : ¬ (s.stack S).active < 2 := fun hc => h (BitVec.lt_def.1 hc)
      simp only [Width.bytes] at h
      refine ⟨joinBytes ((s.stack S).page.get ((s.stack S).active - 2)) ((s.stack S).page.get ((s.stack S).active - 1)),
        (s.stack S).active - 2, ?_, by simp only [pop, pop16, hge, if_false]⟩
      have := (s.stack S).active.isLt
      rw [BitVec.toNat_sub, show (2 : Byte).toNat = 2 from rfl]
      simp only [Width.bytes]
      omega

theorem pop8_cases (S : StackId) (s : State) (next : Byte → State → Result) :
    pop8 S s next = .next (raiseFault .underflow S s) ∨
    ∃ (v p : Byte), p.toNat + 1 = (s.stack S).active.toNat ∧
      pop8 S s next = next v (s.setStack S ((s.stack S).setActive p)) :=
  pop_cases S .byte s next

theorem pop16_cases (S : StackId) (s : State) (next : Word → State → Result) :
    pop16 S s next = .next (raiseFault .underflow S s) ∨
    ∃ (v : Word) (p : Byte), p.toNat + 2 = (s.stack S).active.toNat ∧
      pop16 S s next = next v (s.setStack S ((s.stack S).setActive p)) :=
  pop_cases S .short s next

/-! ## Pushes -/

theorem holdsOver_refl (st : Stack) : st.HoldsOver st.items st := ⟨rfl, fun _ _ _ => rfl⟩

/-- When the pops are done, the stack holds what is left: all of it in keep mode, else the bytes not popped. -/
theorem Popping.holdsOver {keep : Bool} {st0 st : Stack} {xs : List Byte} (h : Popping keep st0 st xs) : st.HoldsOver (if keep then st0.items else xs) st0 := by
  refine ⟨?_, fun k _ hk => h.page k hk⟩
  cases keep with
  | true =>
    rw [if_pos rfl, items_eq_below, items_eq_below, h.ptr rfl]
    apply below_congr
    intro k hk
    apply h.page
    rintro rfl
    rw [BitVec.lt_def, show (255 : Byte).toNat = 255 from rfl] at hk
    have := st0.ptr.isLt
    omega
  | false =>
    have hk : st.keep = none := by
      have := h.mode
      cases hst : st.keep <;> simp_all
    have ha : st.active = st.ptr := by simp [Stack.active, hk]
    have hi := h.items
    rw [Stack.activeItems, ha] at hi
    simpa [items_eq_below] using hi

/-- A stack that holds `xs` over another has as many bytes. -/
theorem Stack.HoldsOver.ptr {st' st : Stack} {xs : List Byte} (h : st'.HoldsOver xs st) :
    st'.ptr.toNat = xs.length := by
  rw [← h.1, length_items]

theorem below_poke_of_le (st : Stack) {i p : Byte} (b : Byte) (h : p ≤ i) : (st.poke i b).below p = st.below p := by
  apply below_congr
  intro k hk
  have : k ≠ i := by
    rintro rfl
    exact absurd (BitVec.lt_def.1 hk) (by have := BitVec.le_def.1 h; omega)
  simp [this]

theorem byte_le_255 (p : Byte) : p ≤ 255 := by
  rw [BitVec.le_def, show (255 : Byte).toNat = 255 from rfl]
  have := p.isLt
  omega

theorem toNat_add_one {p : Byte} (h : p.toNat + 1 ≤ 255) : (p + 1).toNat = p.toNat + 1 := by
  rw [BitVec.toNat_add, show (1 : Byte).toNat = 1 from rfl]
  omega

theorem toNat_add_two {p : Byte} (h : p.toNat + 2 ≤ 255) : (p + 2).toNat = p.toNat + 2 := by
  rw [BitVec.toNat_add, show (2 : Byte).toNat = 2 from rfl]
  omega

theorem ne_of_toNat_lt {a b : Byte} (h : a.toNat < b.toNat) : a ≠ b := by
  rintro rfl
  exact absurd h (Nat.lt_irrefl _)

theorem put8_holdsOver {st st0 : Stack} {xs : List Byte} (h : st.HoldsOver xs st0) (hroom : xs.length + 1 ≤ 254)
    (b : Byte) : (st.put8 b).HoldsOver (xs ++ [b]) st0 := by
  have hp := h.ptr
  have h1 := toNat_add_one (p := st.ptr) (by omega)
  have hne : st.ptr ≠ 255 := ne_of_toNat_lt (by rw [show (255 : Byte).toNat = 255 from rfl]; omega)
  have hptr : (st.put8 b).ptr = st.ptr + 1 := by simp [Stack.put8]
  refine ⟨?_, fun k hk hk255 => ?_⟩
  · rw [items_eq_below, hptr, Stack.put8, below_poke_of_le _ _ (byte_le_255 _), below_succ _ hne,
      below_poke_of_le _ _ (BitVec.le_refl _), get_poke, if_pos rfl, ← items_eq_below, h.1]
  · rw [hptr] at hk
    have hk' := BitVec.le_def.1 hk
    have hkne : k ≠ st.ptr := (ne_of_toNat_lt (by omega)).symm
    rw [Stack.put8, get_poke, if_neg hk255, get_poke, if_neg hkne]
    exact h.2 k (BitVec.le_def.2 (by omega)) hk255

theorem put16_holdsOver {st st0 : Stack} {xs : List Byte} (h : st.HoldsOver xs st0) (hroom : xs.length + 2 ≤ 254)
    (v : Word) : (st.put16 v).HoldsOver (xs ++ [hiByte v, loByte v]) st0 := by
  have hp := h.ptr
  have h1 := toNat_add_one (p := st.ptr) (by omega)
  have h2 := toNat_add_two (p := st.ptr) (by omega)
  have h255 : (255 : Byte).toNat = 255 := rfl
  have hne : st.ptr ≠ 255 := ne_of_toNat_lt (by omega)
  have hne1 : st.ptr + 1 ≠ 255 := ne_of_toNat_lt (by omega)
  have hnn : st.ptr ≠ st.ptr + 1 := ne_of_toNat_lt (by omega)
  have hsum : st.ptr + 2 = st.ptr + 1 + 1 := BitVec.eq_of_toNat_eq (by
    rw [h2, toNat_add_one (by omega), h1])
  have hptr : (st.put16 v).ptr = st.ptr + 2 := by simp [Stack.put16]
  refine ⟨?_, fun k hk hk255 => ?_⟩
  · rw [items_eq_below, hptr, Stack.put16, below_poke_of_le _ _ (byte_le_255 _), hsum, below_succ _ hne1,
      below_succ _ hne, below_poke_of_le _ _ (BitVec.le_def.2 (by omega)),
      below_poke_of_le _ _ (BitVec.le_refl _), get_poke, if_neg hnn, get_poke, if_pos rfl, get_poke, if_pos rfl,
      ← items_eq_below, h.1, List.append_assoc, List.singleton_append]
  · rw [hptr] at hk
    have hk' := BitVec.le_def.1 hk
    have hk1 : k ≠ st.ptr + 1 := (ne_of_toNat_lt (by omega)).symm
    have hk0 : k ≠ st.ptr := (ne_of_toNat_lt (by omega)).symm
    rw [Stack.put16, get_poke, if_neg hk255, get_poke, if_neg hk1, get_poke, if_neg hk0]
    exact h.2 k (BitVec.le_def.2 (by omega)) hk255

/-- A push that fits leaves its bytes on top of what the stack held (R44, R45, R48). -/
theorem push_holdsOver {S : StackId} {s : State} {st0 : Stack} {xs : List Byte} (w : Width) (v : BitVec w.bits)
    (h : (s.stack S).HoldsOver xs st0) (hroom : xs.length + w.bytes ≤ 254) :
    ∃ st, st.HoldsOver (xs ++ valueBytes w v) st0 ∧ ∀ next, push S w v s next = next (s.setStack S st) := by
  have hp := h.ptr
  cases w with
  | byte =>
    simp only [Width.bytes] at hroom
    refine ⟨_, put8_holdsOver h hroom v, fun next => ?_⟩
    have hne : (s.stack S).ptr ≠ 254 := ne_of_toNat_lt (by rw [show (254 : Byte).toNat = 254 from rfl]; omega)
    simp only [push, push8, hne, if_false]
  | short =>
    simp only [Width.bytes] at hroom
    refine ⟨_, put16_holdsOver h hroom v, fun next => ?_⟩
    have : ¬ (s.stack S).ptr.toNat + 2 > 254 := by omega
    simp only [push, push16, this, if_false]

/-- A push that does not fit faults with Overflow (R44, R45). -/
theorem push_overflow (S : StackId) (w : Width) (v : BitVec w.bits) (s : State) (hle : (s.stack S).ptr.toNat ≤ 254)
    (h : 254 < (s.stack S).ptr.toNat + w.bytes) (next : State → Result) :
    push S w v s next = .next (raiseFault .overflow S s) := by
  cases w with
  | byte =>
    simp only [Width.bytes] at h
    have : (s.stack S).ptr = 254 := BitVec.eq_of_toNat_eq (by
      rw [show (254 : Byte).toNat = 254 from rfl]
      omega)
    simp only [push, push8, this, if_true]
  | short =>
    simp only [Width.bytes] at h
    have : (s.stack S).ptr.toNat + 2 > 254 := h
    simp only [push, push16, this, if_true]

/-- The stack after a push at a width that fits. -/
def Stack.put (st : Stack) : (w : Width) → BitVec w.bits → Stack
  | .byte, v => st.put8 v
  | .short, v => st.put16 v

/-- All a push can do: fault with Overflow, or go on with the value on top of the stack, which has room for it. -/
theorem push_cases (S : StackId) (w : Width) (v : BitVec w.bits) (s : State) (next : State → Result) :
    push S w v s next = .next (raiseFault .overflow S s) ∨
    ((s.stack S).ptr.toNat ≤ 254 → (s.stack S).ptr.toNat + w.bytes ≤ 254) ∧
      push S w v s next = next (s.setStack S ((s.stack S).put w v)) := by
  cases w with
  | byte =>
    simp only [push, push8, Stack.put, Width.bytes]
    split
    · exact .inl rfl
    · next h =>
      refine .inr ⟨fun hle => ?_, rfl⟩
      have : (s.stack S).ptr.toNat ≠ 254 := fun hc => h (BitVec.eq_of_toNat_eq hc)
      omega
  | short =>
    simp only [push, push16, Stack.put, Width.bytes]
    split
    · exact .inl rfl
    · next h => exact .inr ⟨fun _ => by omega, rfl⟩

/-! ## Faults and the keep selection -/

/-- The report of a division by zero is the record of its fault (R51, R343). -/
theorem raiseFault_reportDivideByZero (S : StackId) (s : State) :
    raiseFault .divisionByZero S (reportDivideByZero S s) = raiseFault .divisionByZero S s := by
  simp only [raiseFault, reportDivideByZero, stack_setStack_self, setStack_setStack, Stack.poke, Page.set_set]

/-- The keep selection does not look at pc. -/
theorem selectKeep_with_pc (m : Mode) (s : State) (pc : Word) :
    selectKeep m { s with pc := pc } = { selectKeep m s with pc := pc } := by
  unfold selectKeep keepOn keepOff State.setStack State.stack
  cases m.keep <;> cases srcOf m <;> rfl

end Sys2Proof.Machine
end

