-- ==== Sys2Proof/Laws/Sound.lean ====
section
/-!
SUPPORT. What the primitives keep of the invariant in the middle of an instruction: the stacks stay sound, and no
other state changes but by the operation that is named. Each primitive has one rule for the answer it leads to.
-/

namespace Sys2Proof.Machine

/-! ## One stack -/

/-- A stack that no fault has touched: its pointers in [0, 254] and its error byte 0x00 (R35, R36, R550). -/
structure Stack.Sound (st : Stack) : Prop where
  ptr  : st.ptr.toNat ≤ 254
  err  : st.err = 0
  keep : ∀ k, st.keep = some k → k.toNat ≤ 254

theorem Stack.Sound.active {st : Stack} (h : st.Sound) : st.active.toNat ≤ 254 := by
  unfold Stack.active
  cases hk : st.keep with
  | none => exact h.ptr
  | some k => exact h.keep k hk

theorem Stack.Sound.setActive {st : Stack} (h : st.Sound) {p : Byte} (hp : p.toNat ≤ st.active.toNat) :
    (st.setActive p).Sound := by
  have ha := h.active
  unfold Stack.setActive
  cases hk : st.keep with
  | none =>
    refine ⟨?_, ?_, ?_⟩
    · simp only [BitVec.ofNat_eq_ofNat, ptr_poke_ptr]
      omega
    · simpa using h.err
    · simp [hk]
  | some k =>
    refine ⟨h.ptr, h.err, fun k' hk' => ?_⟩
    cases hk'
    omega

theorem err_poke_of_ne (st : Stack) {i : Byte} (b : Byte) (h : i ≠ 254) : (st.poke i b).err = st.err := by
  rw [Stack.err, get_poke, if_neg (Ne.symm h), Stack.err]

theorem Stack.Sound.put {st : Stack} (h : st.Sound) (w : Width) (v : BitVec w.bits)
    (hroom : st.ptr.toNat + w.bytes ≤ 254) : (st.put w v).Sound := by
  have h254 : (254 : Byte).toNat = 254 := rfl
  cases w with
  | byte =>
    simp only [Width.bytes] at hroom
    refine ⟨?_, ?_, h.keep⟩
    · simp only [Stack.put, Stack.put8, BitVec.ofNat_eq_ofNat, ptr_poke_ptr]
      have := toNat_add_one (p := st.ptr) (by omega)
      simp only [BitVec.ofNat_eq_ofNat] at this
      omega
    · have hne : st.ptr ≠ 254 := ne_of_toNat_lt (by omega)
      simp only [Stack.put, Stack.put8, BitVec.ofNat_eq_ofNat, err_poke_ptr]
      rw [err_poke_of_ne _ _ hne, h.err]
      rfl
  | short =>
    simp only [Width.bytes] at hroom
    refine ⟨?_, ?_, h.keep⟩
    · simp only [Stack.put, Stack.put16, BitVec.ofNat_eq_ofNat, ptr_poke_ptr]
      have := toNat_add_two (p := st.ptr) (by omega)
      simp only [BitVec.ofNat_eq_ofNat] at this
      omega
    · have h1 := toNat_add_one (p := st.ptr) (by omega)
      have hne : st.ptr ≠ 254 := ne_of_toNat_lt (by omega)
      have hne1 : st.ptr + 1 ≠ 254 := ne_of_toNat_lt (by omega)
      simp only [BitVec.ofNat_eq_ofNat] at hne1
      simp only [Stack.put, Stack.put16, BitVec.ofNat_eq_ofNat, err_poke_ptr]
      rw [err_poke_of_ne _ _ hne1, err_poke_of_ne _ _ hne, h.err]
      rfl

/-! ## The state in the middle of an instruction -/

/-- `t` differs from `s` only in its two stacks, and both are sound. -/
structure StackStep (s t : State) : Prop where
  wst  : t.wst.Sound
  rst  : t.rst.Sound
  rest : ∃ w r, t = { s with wst := w, rst := r }

theorem StackStep.stack {s t : State} (h : StackStep s t) (S : StackId) : (t.stack S).Sound := by
  cases S
  · exact h.wst
  · exact h.rst

theorem StackStep.setStack {s t : State} (h : StackStep s t) (S : StackId) {st : Stack} (hst : st.Sound) :
    StackStep s (t.setStack S st) := by
  obtain ⟨w, r, rfl⟩ := h.rest
  cases S
  · exact ⟨hst, h.rst, _, _, rfl⟩
  · exact ⟨h.wst, hst, _, _, rfl⟩

theorem StackStep.refl {s : State} (hw : s.wst.Sound) (hr : s.rst.Sound) : StackStep s s := ⟨hw, hr, s.wst, s.rst, rfl⟩

theorem StackStep.mem {s t : State} (h : StackStep s t) : t.mem = s.mem := by
  obtain ⟨w, r, rfl⟩ := h.rest
  rfl

/-- The keep selection keeps the stacks sound (R49, R50, R164). -/
theorem StackStep.selectKeep {s t : State} (h : StackStep s t) (m : Mode) : StackStep s (selectKeep m t) := by
  have hs := h.stack (srcOf m)
  unfold Machine.selectKeep
  split
  · refine h.setStack _ ⟨hs.ptr, hs.err, fun k hk => ?_⟩
    cases hk
    exact hs.ptr
  · refine h.setStack _ ⟨hs.ptr, hs.err, fun k hk => ?_⟩
    cases hk

/-- A pop ends in Underflow from a sound state, or goes on from one. -/
theorem StackStep.pop {P : Result → Prop} {s t : State} (h : StackStep s t) (S : StackId) (w : Width)
    {next : BitVec w.bits → State → Result} (fault : P (.next (raiseFault .underflow S t)))
    (ok : ∀ v u, StackStep s u → P (next v u)) : P (Machine.pop S w t next) := by
  rcases pop_cases S w t next with hc | ⟨v, p, hp, hc⟩
  · rw [hc]
    exact fault
  · rw [hc]
    exact ok v _ (h.setStack S ((h.stack S).setActive (by omega)))

theorem StackStep.pop8 {P : Result → Prop} {s t : State} (h : StackStep s t) (S : StackId)
    {next : Byte → State → Result} (fault : P (.next (raiseFault .underflow S t)))
    (ok : ∀ v u, StackStep s u → P (next v u)) : P (Machine.pop8 S t next) :=
  h.pop S .byte fault ok

theorem StackStep.pop16 {P : Result → Prop} {s t : State} (h : StackStep s t) (S : StackId)
    {next : Word → State → Result} (fault : P (.next (raiseFault .underflow S t)))
    (ok : ∀ v u, StackStep s u → P (next v u)) : P (Machine.pop16 S t next) :=
  h.pop S .short fault ok

/-- A push ends in Overflow from a sound state, or goes on from one. -/
theorem StackStep.push {P : Result → Prop} {s t : State} (h : StackStep s t) (S : StackId) (w : Width)
    (v : BitVec w.bits) {next : State → Result} (fault : P (.next (raiseFault .overflow S t)))
    (ok : ∀ u, StackStep s u → P (next u)) : P (Machine.push S w v t next) := by
  rcases push_cases S w v t next with hc | ⟨hroom, hc⟩
  · rw [hc]
    exact fault
  · rw [hc]
    exact ok _ (h.setStack S ((h.stack S).put w v (hroom (h.stack S).ptr)))

theorem StackStep.push16 {P : Result → Prop} {s t : State} (h : StackStep s t) (S : StackId)
    (v : Word) {next : State → Result} (fault : P (.next (raiseFault .overflow S t)))
    (ok : ∀ u, StackStep s u → P (next u)) : P (Machine.push16 S v t next) :=
  h.push S .short v fault ok

end Sys2Proof.Machine
end

