-- ==== Sys2Proof/Laws/Tick.lean ====
section
/-!
SUPPORT. What a step does by the event of the state: a tick while the run goes on, the host's resumption after a Break,
and a fault after every other event; and what the parameters and a resumption keep.
-/

namespace Sys2Proof

/-- The parameters made lawful are well formed (D17). -/
theorem Params.lawful_wellFormed (p : Params) : p.lawful.wellFormed = true := by
  unfold Params.lawful
  split
  · assumption
  · rfl

namespace Machine

theorem step_of_running {s : State} (h : s.event = none) : step s = tick s := by
  simp only [step, runStep, h]

theorem step_of_brk {s : State} (h : s.event = some .brk) : step s = resume s := by
  simp only [step, runStep, h]

theorem step_of_halt {s : State} {code : Byte} (h : s.event = some (.halt code)) : step s = .fault (.halted code) := by
  simp only [step, runStep, h]

theorem step_of_error {s : State} {kind : FaultKind} (h : s.event = some (.error kind)) :
    step s = .fault (.errored kind) := by
  simp only [step, runStep, h]

/-- A tick is the meaning of the instruction at pc, BRK found before the fetch (R161, R172). -/
theorem tick_cases (s : State) :
    (s.mem.read s.pc = 0x00 ∧ tick s = exec .brk s) ∨
    (s.mem.read s.pc ≠ 0x00 ∧ tick s = exec (fetchInstr s) { s with pc := s.pc + 1 }) := by
  unfold tick
  split
  · next h => exact .inl ⟨h, rfl⟩
  · next h => exact .inr ⟨h, rfl⟩

/-- The host's key changes only the host side, and not its monotonic clock (R505). -/
theorem hostKey_snd (s : State) : ∃ o : Outside, (hostKey s).2 = { s with outside := o } ∧
    o.calls = s.outside.calls ++ [.key] ∧ o.monotonic = s.outside.monotonic := ⟨_, rfl, rfl, rfl⟩

/-- All a resumption can do: stop, or go on at the console vector with the key in port 0x12 (R502, R506). -/
theorem resume_cases (s : State) :
    resume s = .fault .brokeWithoutVector ∨ resume s = .fault .keyInputEnded ∨
    ∃ key o, (hostKey s).1 = some key ∧ o.monotonic = s.outside.monotonic ∧ resume s = .next
      { s with port := s.port.set 0x12 key, pc := consoleVector s, event := none, outside := o } := by
  unfold resume
  split
  · exact .inl rfl
  · split
    · exact .inr (.inl rfl)
    · next key t h =>
      obtain ⟨o, ho, -, hm⟩ := hostKey_snd s
      rw [h] at ho
      refine .inr (.inr ⟨key, o, by rw [h], hm, ?_⟩)
      show Host.Outcome.next _ = _
      rw [show t = _ from ho]

end Machine

end Sys2Proof
end

