-- ==== Sys2Proof/Laws/Turns.lean ====
section
/-!
SUPPORT. The steps of an instruction on its source stack, in the form a statement about it needs them: the keep
selection, each pop, the bytes that are left, each push, the addresses of R132 and R133, and the way DEO reaches the
device bus.
-/

namespace Sys2Proof.Machine

/-! ## The source stack -/

/-- The keep selection, where the source stack is known to end in some operands. -/
theorem selectKeep_items {m : Mode} {s : State} {xs : List Byte} (h : (s.stack (srcOf m)).items = xs) :
    ∃ st, selectKeep m s = s.setStack (srcOf m) st ∧ Popping m.keep (s.stack (srcOf m)) st xs := by
  obtain ⟨st, h1, h2⟩ := selectKeep_popping m s
  exact ⟨st, h1, h ▸ h2⟩

/-- A pop of the source stack, in the state that an earlier step left. -/
theorem Popping.pop {m : Mode} {st0 st : Stack} {xs : List Byte} (s : State) (w : Width) (v : BitVec w.bits)
    (h : Popping m.keep st0 st (xs ++ valueBytes w v)) :
    ∃ st', Popping m.keep st0 st' xs ∧
      ∀ next, Machine.pop (srcOf m) w (s.setStack (srcOf m) st) next = next v (s.setStack (srcOf m) st') := by
  obtain ⟨st', h1, h2⟩ := pop_popping (S := srcOf m) (s := s.setStack (srcOf m) st) w v (by simpa using h)
  exact ⟨st', h1, fun next => by rw [h2, setStack_setStack]⟩

theorem Popping.pop8 {m : Mode} {st0 st : Stack} {xs : List Byte} (s : State) (v : Byte)
    (h : Popping m.keep st0 st (xs ++ [v])) :
    ∃ st', Popping m.keep st0 st' xs ∧
      ∀ next, Machine.pop8 (srcOf m) (s.setStack (srcOf m) st) next = next v (s.setStack (srcOf m) st') :=
  h.pop s .byte v

theorem Popping.pop16 {m : Mode} {st0 st : Stack} {xs : List Byte} (s : State) (v : Word)
    (h : Popping m.keep st0 st (xs ++ [hiByte v, loByte v])) :
    ∃ st', Popping m.keep st0 st' xs ∧
      ∀ next, Machine.pop16 (srcOf m) (s.setStack (srcOf m) st) next = next v (s.setStack (srcOf m) st') :=
  h.pop s .short v

/-- When all operands are popped, the source stack holds the rest and, in keep mode, the operands too (R55). -/
theorem Popping.holdsOver_kept {m : Mode} {st0 st : Stack} {l operands : List Byte} (h : Popping m.keep st0 st l)
    (h0 : st0.items = l ++ operands) : st.HoldsOver (l ++ kept m operands) st0 := by
  have hh := h.holdsOver
  have : (if m.keep then st0.items else l) = l ++ kept m operands := by
    unfold kept
    cases m.keep <;> simp [h0]
  rwa [this] at hh

/-- A push onto the source stack that fits, in the state that an earlier step left. -/
theorem Stack.HoldsOver.push {S : StackId} {st0 st : Stack} {xs : List Byte} (s : State) (w : Width)
    (v : BitVec w.bits) (h : st.HoldsOver xs st0) (hroom : xs.length + w.bytes ≤ 254) :
    ∃ st', st'.HoldsOver (xs ++ valueBytes w v) st0 ∧
      ∀ next, Machine.push S w v (s.setStack S st) next = next (s.setStack S st') := by
  obtain ⟨st', h1, h2⟩ := push_holdsOver (S := S) (s := s.setStack S st) w v (by simpa using h) hroom
  exact ⟨st', h1, fun next => by rw [h2, setStack_setStack]⟩

theorem Stack.HoldsOver.push16 {S : StackId} {st0 st : Stack} {xs : List Byte} (s : State) (v : Word)
    (h : st.HoldsOver xs st0) (hroom : xs.length + 2 ≤ 254) :
    ∃ st', st'.HoldsOver (xs ++ [hiByte v, loByte v]) st0 ∧
      ∀ next, Machine.push16 S v (s.setStack S st) next = next (s.setStack S st') :=
  h.push s .short v hroom

/-- Recording a fault leaves the bytes on a stack as they are (R52). -/
theorem items_poke_err {st : Stack} (h : st.ptr.toNat ≤ 254) (b : Byte) : (st.poke 254 b).items = st.items := by
  have hptr : (st.poke 254 b).ptr = st.ptr := by simp
  rw [items_eq_below, items_eq_below, hptr]
  apply below_congr
  intro k hk
  rw [get_poke, if_neg]
  rintro rfl
  have := BitVec.lt_def.1 hk
  rw [show (254 : Byte).toNat = 254 from rfl] at this
  omega

/-! ## Replacing a stack and another field -/

theorem setStack_with_pc (s : State) (S : StackId) (st : Stack) (pc : Word) :
    { s with pc := pc }.setStack S st = { s.setStack S st with pc := pc } := by cases S <;> rfl

theorem setStack_with_mem (s : State) (S : StackId) (st : Stack) (mem : Memory) :
    { s with mem := mem }.setStack S st = { s.setStack S st with mem := mem } := by cases S <;> rfl

theorem setStack_with_port (s : State) (S : StackId) (st : Stack) (port : Page) :
    { s with port := port }.setStack S st = { s.setStack S st with port := port } := by cases S <;> rfl

theorem setStack_with_event (s : State) (S : StackId) (st : Stack) (event : Option Event) :
    { s with event := event }.setStack S st = { s.setStack S st with event := event } := by cases S <;> rfl

theorem setStack_with_outside (s : State) (S : StackId) (st : Stack) (outside : Outside) :
    { s with outside := outside }.setStack S st = { s.setStack S st with outside := outside } := by cases S <;> rfl

theorem setStack_call (s : State) (S : StackId) (st : Stack) (c : HostCall) :
    (s.call c).setStack S st = (s.setStack S st).call c := by cases S <;> rfl

/-! ## Addresses -/

/-- A relative address is pc plus the signed value of its delta, modulo 2^16 (R87). -/
theorem relativeAddress_eq (pc : Word) (d : Byte) : relativeAddress pc d = BitVec.ofInt 16 (pc.toNat + d.toInt) := by
  apply BitVec.eq_of_toInt_eq
  simp only [relativeAddress, BitVec.toInt_add, BitVec.toInt_ofInt]
  rw [BitVec.toInt_signExtend_of_le (by omega), BitVec.toInt_eq_toNat_bmod, Int.bmod_add_bmod]

/-- A zero-page address is the byte itself (R92). -/
theorem zeroPageAddress_eq (a : Byte) : zeroPageAddress a = BitVec.ofNat 16 a.toNat := by
  apply BitVec.eq_of_toNat_eq
  simp [zeroPageAddress]

theorem toNat_shiftRightAmount (c : Byte) : shiftRightAmount c = c.toNat % 16 := by
  simp [shiftRightAmount, BitVec.extractLsb'_toNat]

theorem toNat_shiftLeftAmount (c : Byte) : shiftLeftAmount c = c.toNat / 16 := by
  have := c.isLt
  simp [shiftLeftAmount, BitVec.extractLsb'_toNat, Nat.shiftRight_eq_div_pow]
  omega

/-! ## The device bus -/

theorem slotOf_fileBase (i : FileId) (index : BitVec 4) : slotOf (i.base + index.setWidth 8) = slotOf i.base := by
  cases i <;> revert index <;> decide

theorem localOf_fileBase (i : FileId) (index : BitVec 4) : localOf (i.base + index.setWidth 8) = index := by
  cases i <;> revert index <;> decide

theorem slotOf_clock (index : BitVec 4) : slotOf (0xC#4 ++ index) = 0xC := by
  revert index
  decide

theorem localOf_clock (index : BitVec 4) : localOf (0xC#4 ++ index) = index := by
  revert index
  decide

/-- The trigger of a port of a file slot is that of its device (R384, R430). -/
theorem trigger_file (i : FileId) (index : BitVec 4) (s : State) (next : Option Byte → State → Result) :
    trigger (i.base + index.setWidth 8) s next = fileSlotTrigger i index s next := by
  unfold trigger
  rw [slotOf_fileBase, localOf_fileBase]
  cases i <;> rfl

/-- The input of a port does not look at the stacks. -/
theorem devIn_setStack (p : Byte) (s : State) (S : StackId) (st : Stack) :
    devIn p (s.setStack S st) = ((devIn p s).1, (devIn p s).2.setStack S st) := by
  unfold devIn hostClock
  split
  · simp only
    split <;> cases S <;> rfl
  · cases S <;> rfl

/-- DEO with its operands on the source stack reaches the device bus with them popped (R311). -/
theorem exec_deo {m : Mode} {s : State} {l : List Byte} {p : Byte} {v : BitVec m.width.bits}
    (h : (s.stack (srcOf m)).items = l ++ (valueBytes _ v ++ [p])) :
    ∃ st, st.HoldsOver (l ++ kept m (valueBytes _ v ++ [p])) (s.stack (srcOf m)) ∧
      exec (.form .deo m) s = devOutW p m.width v (s.setStack (srcOf m) st) finishHalt := by
  obtain ⟨st, e, hp⟩ := selectKeep_items (m := m) (xs := (l ++ valueBytes _ v) ++ [p]) (by simpa using h)
  obtain ⟨st1, hp1, e1⟩ := hp.pop8 s p
  obtain ⟨st2, hp2, e2⟩ := hp1.pop s _ v
  refine ⟨st2, hp2.holdsOver_kept h, ?_⟩
  rw [exec_form]
  simp only [baseOp, deoOp, e, e1, e2]

theorem exec_deo_byte {keep ret : Bool} {s : State} {l : List Byte} {p b : Byte}
    (h : (s.stack (srcOf ⟨keep, ret, false⟩)).items = l ++ [b, p]) :
    ∃ st, st.HoldsOver (l ++ kept ⟨keep, ret, false⟩ [b, p]) (s.stack (srcOf ⟨keep, ret, false⟩)) ∧
      exec (.form .deo ⟨keep, ret, false⟩) s = devOut p b (s.setStack (srcOf ⟨keep, ret, false⟩) st) finishHalt :=
  exec_deo (m := ⟨keep, ret, false⟩) (v := b) h

theorem exec_deo_short {keep ret : Bool} {s : State} {l : List Byte} {p h b : Byte}
    (hs : (s.stack (srcOf ⟨keep, ret, true⟩)).items = l ++ [h, b, p]) :
    ∃ st, st.HoldsOver (l ++ kept ⟨keep, ret, true⟩ [h, b, p]) (s.stack (srcOf ⟨keep, ret, true⟩)) ∧
      exec (.form .deo ⟨keep, ret, true⟩) s =
        devOut16 p (joinBytes h b) (s.setStack (srcOf ⟨keep, ret, true⟩) st) finishHalt := by
  have hv : valueBytes (Mode.width ⟨keep, ret, true⟩) (joinBytes h b) = [h, b] := by
    show [hiByte (joinBytes h b), loByte (joinBytes h b)] = [h, b]
    simp
  have key := exec_deo (m := ⟨keep, ret, true⟩) (s := s) (l := l) (p := p) (v := joinBytes h b)
  rw [hv] at key
  exact key hs

end Sys2Proof.Machine
end

