-- ==== Sys2Proof/Tests/Slice0.lean ====
section
/-!
SUPPORT. Tests of the model: ill-formed terms that the checks of WellFormed refuse, words written out from the spec's
encoding, vectors of spec/95_test_vectors.md (named in each docstring), each one tick on a small state, and for the
statements with hypotheses a state and operands that meet them.
-/

namespace Sys2Proof.Tests

open Sys2Proof.Machine

/-! ## A small machine -/

/-- A stack that holds some bytes, bottom to top. -/
def stackOf (bytes : List Byte) : Stack := bytes.foldl Stack.put8 Stack.reset

/-- A stack that holds `n` bytes 0x00. -/
def zeros (n : Byte) : Stack := { page := Page.zero.set 255 n, keep := none }

/-- Parameters written out, so that a test can look at them. -/
def someParams : Params :=
  { fileIface := .virtual, safety := true, crossTrigger := .zeroResult, weekdayMap := ⟨#[1, 2, 3, 4, 5, 6, 0], rfl⟩,
    ydayBase := 1 }

/-- A host with no answer ready and no file. -/
def quietHost : Outside := { State.reset.outside with files := [] }

/-- The reset state with some bytes at 0x0100, two stacks, and the open parameters written out. -/
def machine (code : List Byte) (w r : Stack) : State :=
  { State.reset with
    wst := w, rst := r, mem := Memory.writeBytes [] 0x0100 code, params := someParams, timeSource := .utc,
    outside := quietHost }

/-- What a vector of the spec says of a tick: both stacks, pc and the event after it. -/
def shows (r : Result) (wst rst : List Byte) (pc : Word) (event : Option Event) : Bool :=
  match r with
  | .next t => t.wst.items == wst && t.rst.items == rst && t.pc == pc && decide (t.event = event)
  | _ => false

/-- The state a step answers, the reset state where it answers none. -/
def after : Result → State
  | .next t => t
  | _ => State.reset

/-- What the tick of some bytes shows on a working stack. -/
def run (code before wst rst : List Byte) (pc : Word) (event : Option Event) : Bool :=
  shows (step (machine code (stackOf before) Stack.reset)) wst rst pc event

/-- What the tick of a load shows, with some bytes of memory written, on a working stack. -/
def loads (code before : List Byte) (a : Word) (data wst : List Byte) : Bool :=
  let s := machine code (stackOf before) Stack.reset
  shows (step { s with mem := s.mem.writeBytes a data }) wst [] 0x0101 none

/-- The bytes of memory after the tick of some bytes on a working stack. -/
def stored (code before : List Byte) (a : Word) (n : Nat) : List Byte :=
  (after (step (machine code (stackOf before) Stack.reset))).mem.readBytes a n

/-! ## What WellFormed refuses

An instruction has no ill-formed term: its only field, an immediate, is as wide as its encoding. -/

/-- A ROM one byte longer than 65,280 is refused, and one of 65,280 bytes is not (R541, D34). -/
theorem test_rom_too_long_refused :
    romWellFormed (List.replicate 65281 0) = false ∧ romWellFormed (List.replicate 65280 0) = true := by
  unfold romWellFormed
  rw [List.length_replicate, List.length_replicate]
  decide

/-- A weekday map that gives two days one byte is refused (D17). -/
theorem test_repeated_weekday_refused :
    Params.wellFormed { someParams with weekdayMap := ⟨#[1, 2, 3, 3, 5, 6, 0], rfl⟩ } = false ∧
    Params.wellFormed someParams = true := by decide

/-- A map that is not injective is replaced, and one that is stays as it is. -/
theorem test_lawful_params :
    (Params.lawful { someParams with weekdayMap := ⟨#[1, 2, 3, 3, 5, 6, 0], rfl⟩ }).wellFormed = true ∧
    someParams.lawful = someParams := by decide

/-- A memory out of order, with a repeated address, with a byte 0x00 or with an address of 17 bits is not canonical. -/
theorem test_memory_not_canonical :
    ¬ Memory.wf [(2, 1), (1, 1)] ∧ ¬ Memory.wf [(1, 1), (1, 2)] ∧ ¬ Memory.wf [(1, 0)] ∧ ¬ Memory.wf [(65536, 1)] ∧
    Memory.wf [(1, 1), (65535, 2)] := by decide

/-! ## Decoding (30_encoding.md; T-DEC of 95_test_vectors.md) -/

/-- BRK and the no-ops: base 0x00, keep bit clear: 000 00000, 001 00000, 010 00000, 011 00000. -/
theorem test_decode_brk_and_no_ops :
    decode [0b00000000] = .ok (.brk, []) ∧ decode [0b00100000] = .ok (.nop20, []) ∧
    decode [0b01000000] = .ok (.nop40, []) ∧ decode [0b01100000] = .ok (.nop60, []) := by decide

/-- LIT: base 0x00, keep bit set; two bytes, or three with the short bit, high byte first. -/
theorem test_decode_lit :
    decode [0b10000000, 0x11] = .ok (.lit 0x11, []) ∧ decode [0b10100000, 0x12, 0x34] = .ok (.lit2 0x1234, []) ∧
    decode [0b11000000, 0x33, 0x00] = .ok (.litr 0x33, [0x00]) ∧
    decode [0b11100000, 0x12, 0x34] = .ok (.lit2r 0x1234, []) := by decide

/-- A list that ends before the instruction does is refused by name. -/
theorem test_decode_refuses_short_lists :
    decode [] = .error .noByte ∧ decode [0x80] = .error .immediateCutShort ∧
    decode [0xA0, 0x12] = .error .immediateCutShort := by decide

/-- Stack operations, bases 00001 to 00111: INC, POP2, NIPr, SWP2r, ROTk, DUP2k, OVRkr. -/
theorem test_decode_stack_operations :
    decode [0b00000001] = .ok (.inc, []) ∧ decode [0b00100010] = .ok (.pop2, []) ∧
    decode [0b01000011] = .ok (.nipr, []) ∧ decode [0b01100100] = .ok (.swp2r, []) ∧
    decode [0b10000101] = .ok (.rotk, []) ∧ decode [0b10100110] = .ok (.dup2k, []) ∧
    decode [0b11000111] = .ok (.ovrkr, []) := by decide

/-- Comparisons, jumps and stash, bases 01000 to 01111: EQU, NEQ2, GTHr, LTHk, JMP2r, JCN, JSR2, STH2kr. -/
theorem test_decode_compare_jump :
    decode [0b00001000] = .ok (.equ, []) ∧ decode [0b00101001] = .ok (.neq2, []) ∧
    decode [0b01001010] = .ok (.gthr, []) ∧ decode [0b10001011] = .ok (.lthk, []) ∧
    decode [0b01101100] = .ok (.jmp2r, []) ∧ decode [0b00001101] = .ok (.jcn, []) ∧
    decode [0b00101110] = .ok (.jsr2, []) ∧ decode [0b11101111] = .ok (.sth2kr, []) := by decide

/-- Loads, stores and devices, bases 10000 to 10111: LDZ, STZ2, LDRr, STR2r, LDA2k, STAk, DEI, DEO2. -/
theorem test_decode_load_store_device :
    decode [0b00010000] = .ok (.ldz, []) ∧ decode [0b00110001] = .ok (.stz2, []) ∧
    decode [0b01010010] = .ok (.ldrr, []) ∧ decode [0b01110011] = .ok (.str2r, []) ∧
    decode [0b10110100] = .ok (.lda2k, []) ∧ decode [0b10010101] = .ok (.stak, []) ∧
    decode [0b00010110] = .ok (.dei, []) ∧ decode [0b00110111] = .ok (.deo2, []) := by decide

/-- Arithmetic and logic, bases 11000 to 11111: ADD2, SUBk, MULr, DIV2kr, AND, ORA2, EORk, SFT2kr. -/
theorem test_decode_arith_logic :
    decode [0b00111000] = .ok (.add2, []) ∧ decode [0b10011001] = .ok (.subk, []) ∧
    decode [0b01011010] = .ok (.mulr, []) ∧ decode [0b11111011] = .ok (.div2kr, []) ∧
    decode [0b00011100] = .ok (.and, []) ∧ decode [0b00111101] = .ok (.ora2, []) ∧
    decode [0b10011110] = .ok (.eork, []) ∧ decode [0b11111111] = .ok (.sft2kr, []) := by decide

/-- All 256 opcode bytes decode, each to the instruction whose opcode byte it is. -/
theorem test_every_byte_decodes :
    ∀ op : Byte, (decodeOp op 0 0).opcode = op := by decide +kernel

/-- Words numbered as the opcode table numbers them: LIT2's row has 24 bits, its opcode the lowest byte. -/
theorem test_decode_table_word :
    decodeTableWord 8 0x38 = some .add2 ∧ decodeTableWord 24 0x3412A0 = some (.lit2 0x1234) ∧
    decodeTableWord 8 0x80 = some (.lit 0x00) := by decide

/-! ## From reset -/

/-- With nothing placed, the first tick finds 0x00 at 0x0100 and ends in Break; the next step stops (R541, R502). -/
theorem test_reset_without_rom :
    shows (step State.reset) [] [] 0x0100 (some .brk) = true ∧
    step (after (step State.reset)) = .fault .brokeWithoutVector := ⟨by decide, rfl⟩

/-- A word placed where the next step fetches runs as the first instruction: LIT2 with its immediate, and ADD, which
finds no operand. -/
theorem test_with_fetch_word :
    shows (step (State.reset.withFetchWord 24 0x3412A0)) [0x12, 0x34] [] 0x0103 none ∧
    shows (step (State.reset.withFetchWord 8 0x18)) [] [] 0x0101 (some (.error .underflow)) := by decide

/-- The launch of scenario S1's ROM: LIT 01, INC, BRK; the first step is the LIT. -/
theorem test_boot_s1 :
    shows (match boot [0x80, 0x01, 0x01, 0x00] with | .next s => step s | other => other) [0x01] [] 0x0102 none := by decide

/-! ## BRK, no-ops and LIT -/

/-- T-BRK, T-NOP20, T-NOP40, T-NOP60. -/
theorem test_brk_and_no_ops :
    run [0x00] [0x01] [0x01] [] 0x0100 (some .brk) ∧
    run [0x20] [0x01] [0x01] [] 0x0101 none ∧ run [0x40] [] [] [] 0x0101 none ∧
    run [0x60] [] [] [] 0x0101 none := by decide

/-- T-LIT, T-LITr, T-LIT2r. -/
theorem test_lit :
    run [0x80, 0x11] [] [0x11] [] 0x0102 none ∧ run [0xC0, 0x33] [] [] [0x33] 0x0102 none ∧
    run [0xE0, 0x12, 0x34] [] [] [0x12, 0x34] 0x0103 none := by decide

/-- T-LIT2-wrap: the immediate of a LIT2 at 0xFFFE takes its low byte from 0x0000. -/
theorem test_lit2_wrap :
    shows (step { machine [] Stack.reset Stack.reset with
      pc := 0xFFFE, mem := Memory.writeBytes [] 0xFFFE [0xA0, 0xAB, 0xCD] }) [0xAB, 0xCD] [] 0x0001 none := by decide

/-- T-LIT-ovf and T-LIT2-ovf: no room; pc is past the immediate and the error byte is 0x02. -/
theorem test_lit_overflow :
    (after (step (machine [0x80, 0x11] (zeros 254) Stack.reset))).event = some (.error .overflow) ∧
    (after (step (machine [0xA0, 0x12, 0x34] (zeros 253) Stack.reset))).pc = 0x0103 ∧
    (after (step (machine [0xA0, 0x12, 0x34] (zeros 253) Stack.reset))).wst.err = 0x02 := by decide

/-! ## Stack operations -/

/-- T-INC-wrap, T-INC2-wrap, T-INCk, T-INC2-short. -/
theorem test_inc :
    run [0x01] [0xFF] [0x00] [] 0x0101 none ∧ run [0x21] [0xFF, 0xFF] [0x00, 0x00] [] 0x0101 none ∧
    run [0x81] [0x05] [0x05, 0x06] [] 0x0101 none ∧
    run [0x21] [0x05] [0x05] [] 0x0101 (some (.error .underflow)) := by decide

/-- T-POP2, T-POP2k, T-NIP2, T-NIPk, T-NIP-short. -/
theorem test_pop_nip :
    run [0x22] [0x01, 0x02, 0x03] [0x01] [] 0x0101 none ∧
    run [0xA2] [0x01, 0x02] [0x01, 0x02] [] 0x0101 none ∧
    run [0x23] [0x01, 0x02, 0x03, 0x04] [0x03, 0x04] [] 0x0101 none ∧
    run [0x83] [0x01, 0x02] [0x01, 0x02, 0x02] [] 0x0101 none ∧
    run [0x03] [0x07] [] [] 0x0101 (some (.error .underflow)) := by decide

/-- T-SWP2, T-SWPk, T-ROT2, T-ROTk. -/
theorem test_swp_rot :
    run [0x24] [0x12, 0x34, 0x56, 0x78] [0x56, 0x78, 0x12, 0x34] [] 0x0101 none ∧
    run [0x84] [0x01, 0x02] [0x01, 0x02, 0x02, 0x01] [] 0x0101 none ∧
    run [0x25] [0x01, 0x02, 0x03, 0x04, 0x05, 0x06] [0x03, 0x04, 0x05, 0x06, 0x01, 0x02] [] 0x0101 none ∧
    run [0x85] [0x01, 0x02, 0x03] [0x01, 0x02, 0x03, 0x02, 0x03, 0x01] [] 0x0101 none := by decide

/-- T-DUP2, T-DUPr, T-OVR2, T-OVRk. -/
theorem test_dup_ovr :
    run [0x26] [0x12, 0x34] [0x12, 0x34, 0x12, 0x34] [] 0x0101 none ∧
    shows (step (machine [0x46] Stack.reset (stackOf [0x05]))) [] [0x05, 0x05] 0x0101 none ∧
    run [0x27] [0x01, 0x02, 0x03, 0x04] [0x01, 0x02, 0x03, 0x04, 0x01, 0x02] [] 0x0101 none ∧
    run [0x87] [0x01, 0x02] [0x01, 0x02, 0x01, 0x02, 0x01] [] 0x0101 none := by decide

/-- T-SWPk-ovf: the first push stays, the second faults. T-DUP-ovf: the value stays, the pointer is 254. -/
theorem test_partial_pushes_stay :
    (after (step (machine [0x84] ((((zeros 251).put8 0x01).put8 0x02)) Stack.reset))).wst.items.drop 251 =
      [0x01, 0x02, 0x02] ∧
    (after (step (machine [0x06] ((zeros 253).put8 0x09) Stack.reset))).wst.ptr = 254 ∧
    (after (step (machine [0x06] ((zeros 253).put8 0x09) Stack.reset))).event = some (.error .overflow) := by decide

/-! ## Comparisons, jumps and stash -/

/-- T-EQU2, T-NEQ, T-GTH-unsigned, T-GTHk, T-LTH2. -/
theorem test_comparisons :
    run [0x28] [0x12, 0x34, 0x12, 0x35] [0x00] [] 0x0101 none ∧
    run [0x09] [0x05, 0x06] [0x01] [] 0x0101 none ∧ run [0x0A] [0xFF, 0x01] [0x01] [] 0x0101 none ∧
    run [0x8A] [0x03, 0x02] [0x03, 0x02, 0x01] [] 0x0101 none ∧
    run [0x2B] [0x00, 0x01, 0x80, 0x00] [0x01] [] 0x0101 none := by decide

/-- T-JMP-self and T-JMP2, from 0x0100; T-JMPk. -/
theorem test_jmp :
    run [0x0C] [0xFF] [] [] 0x0100 none ∧ run [0x2C] [0x12, 0x34] [] [] 0x1234 none ∧
    run [0x8C] [0x02] [0x02] [] 0x0103 none := by decide

/-- T-JMP-wrap: a jump at 0xFFFF; T-JMP2r: the return idiom. -/
theorem test_jmp_wrap_and_return :
    shows (step { machine [] (stackOf [0x01]) Stack.reset with
      pc := 0xFFFF, mem := Memory.writeBytes [] 0xFFFF [0x0C] }) [] [] 0x0001 none ∧
    shows (step (machine [0x6C] Stack.reset (stackOf [0x01, 0x04]))) [] [] 0x0104 none := by decide

/-- T-JCN-taken, T-JCN-not, T-JCN2-taken, T-JCN-short. -/
theorem test_jcn :
    run [0x0D] [0x03, 0x01] [] [] 0x0104 none ∧ run [0x0D] [0x03, 0x00] [] [] 0x0101 none ∧
    run [0x2D] [0x02, 0x00, 0x80] [] [] 0x0200 none ∧
    run [0x0D] [0x01] [] [] 0x0101 (some (.error .underflow)) := by decide

/-- T-JSR2-src-unf and JSR2 at 0x0100: the return address is pushed before the target is popped. -/
theorem test_jsr :
    run [0x2E] [] [] [0x01, 0x01] 0x0101 (some (.error .underflow)) ∧
    run [0x2E] [0x03, 0x00] [] [0x01, 0x01] 0x0300 none ∧
    shows (step (machine [0x6E] Stack.reset (stackOf [0x03, 0x00]))) [0x01, 0x01] [] 0x0300 none := by decide

/-- T-JSR2-dst-ovf: nothing is popped; T-STH-dst-ovf: the value is popped. -/
theorem test_destination_overflow :
    (after (step (machine [0x2E] (stackOf [0x01, 0x10]) (zeros 253)))).wst.items = [0x01, 0x10] ∧
    (after (step (machine [0x2E] (stackOf [0x01, 0x10]) (zeros 253)))).rst.err = 0x02 ∧
    (after (step (machine [0x0F] (stackOf [0x12]) (zeros 254)))).wst.items = [] ∧
    (after (step (machine [0x0F] (stackOf [0x12]) (zeros 254)))).rst.err = 0x02 := by decide

/-- T-STH2, T-STHr, T-STHk. -/
theorem test_sth :
    run [0x2F] [0x12, 0x34] [] [0x12, 0x34] 0x0101 none ∧
    shows (step (machine [0x4F] Stack.reset (stackOf [0x12]))) [0x12] [] 0x0101 none ∧
    run [0x8F] [0x12] [0x12] [0x12] 0x0101 none := by decide

/-! ## Loads and stores -/

/-- T-LDZ; T-LDZ2-wrap with the instruction at 0x0200; T-LDZ2-ovf. -/
theorem test_ldz :
    loads [0x10] [0x10] 0x0010 [0xAA] [0xAA] ∧
    shows (step { machine [] (stackOf [0xFF]) Stack.reset with
      pc := 0x0200, mem := (Memory.writeBytes [] 0x00FF [0x11, 0x22]).write 0x0200 0x30 }) [0x11, 0x22] [] 0x0201 none ∧
    (after (step (machine [0x30] ((zeros 253).put8 0x10) Stack.reset))).wst.ptr = 253 := by decide

/-- T-STZ2: the value's low byte at 0xFF is at 0x0100; T-STZk keeps its operands. -/
theorem test_stz :
    stored [0x31] [0x12, 0x34, 0xFF] 0x00FF 2 = [0x12, 0x34] ∧ stored [0x91] [0xAA, 0x10] 0x0010 1 = [0xAA] ∧
    run [0x91] [0xAA, 0x10] [0xAA, 0x10] [] 0x0101 none := by decide

/-- T-LDR and T-LDR-back, with the instruction at 0x0100. -/
theorem test_ldr :
    loads [0x12] [0x04] 0x0105 [0x42] [0x42] ∧
    loads [0x12] [0xFE] 0x00FF [0x77] [0x77] := by decide

/-- T-STR, with the instruction at 0x0100. -/
theorem test_str : stored [0x13] [0x99, 0x02] 0x0103 1 = [0x99] ∧ run [0x13] [0x99, 0x02] [] [] 0x0101 none := by
  decide

/-- T-LDA and T-LDA2-wrap. -/
theorem test_lda :
    loads [0x14] [0x02, 0x00] 0x0200 [0x12] [0x12] ∧
    loads [0x34] [0xFF, 0xFF] 0xFFFF [0xAB, 0xCD] [0xAB, 0xCD] := by decide

/-- T-STA2-wrap and T-STA-short. -/
theorem test_sta :
    stored [0x35] [0xAB, 0xCD, 0xFF, 0xFF] 0xFFFF 2 = [0xAB, 0xCD] ∧
    run [0x15] [0x02, 0x00] [] [] 0x0101 (some (.error .underflow)) := by decide

/-! ## Devices -/

/-- A machine whose ports hold some bytes. -/
def withPorts (s : State) (ports : List (Byte × Byte)) : State :=
  { s with port := ports.foldl (fun port entry => port.set entry.1 entry.2) s.port }

/-- T-DEI2 and T-DEI2-wrap. -/
theorem test_dei :
    shows (step (withPorts (machine [0x16] (stackOf [0x12]) Stack.reset) [(0x12, 0x61)])) [0x61] [] 0x0101 none ∧
    shows (step (withPorts (machine [0x36] (stackOf [0xFF]) Stack.reset) [(0xFF, 0x11), (0x00, 0x22)])) [0x11, 0x22] [] 0x0101 none := by decide

/-- A reading of a clock in 2026, with DST in effect. -/
def someReading : ClockReading :=
  { year := 2026, month := 0, dayIndex := 0, hour := 0, minute := 0, second := 0, weekday := .thursday, ydayIndex := 0,
    dst := true }

/-- A machine whose host has two clock answers ready, the second a failure. -/
def withClock (s : State) : State :=
  { s with outside := { s.outside with clocks := [.time someReading 3, .failure], dtUndefs := [0x5A] } }

/-- T-DEI2-clock with one query for each byte, the second of which fails and reads as 1970's low byte; DST is 0 for
UTC; T-DEI-dt-undef pushes the host's byte. -/
theorem test_dei_clock :
    shows (step (withClock (machine [0x36] (stackOf [0xC0]) Stack.reset))) [0x07, 0xB2] [] 0x0101 none ∧
    shows (step (withClock (machine [0x16] (stackOf [0xCA]) Stack.reset))) [0x00] [] 0x0101 none ∧
    shows (step (withClock (machine [0x16] (stackOf [0xCB]) Stack.reset))) [0x5A] [] 0x0101 none := by decide

/-- T-DEO and T-DEO-stderr: the byte is stored and written. -/
theorem test_deo_console :
    (after (step (machine [0x17] (stackOf [0x41, 0x18]) Stack.reset))).stdout = [0x41] ∧
    (after (step (machine [0x17] (stackOf [0x41, 0x18]) Stack.reset))).port.get 0x18 = 0x41 ∧
    (after (step (machine [0x17] (stackOf [0x45, 0x19]) Stack.reset))).stderr = [0x45] := by decide

/-- T-DEO2-halt: both bytes are stored; T-DEO-zero-state: no halt. -/
theorem test_deo_state :
    run [0x37] [0x05, 0x06, 0x0F] [] [] 0x0101 (some (.halt 0x05)) ∧
    (after (step (machine [0x37] (stackOf [0x05, 0x06, 0x0F]) Stack.reset))).port.get 0x10 = 0x06 ∧
    run [0x17] [0x00, 0x0F] [] [] 0x0101 none := by decide

/-- T-DEO2-debug: a zero high byte shows nothing, and the low byte halts. -/
theorem test_deo2_debug :
    run [0x37] [0x00, 0x01, 0x0E] [] [] 0x0101 (some (.halt 0x01)) ∧
    (after (step (machine [0x37] (stackOf [0x00, 0x01, 0x0E]) Stack.reset))).outside.calls = [] := by decide

/-! ## Arithmetic, logic and shift -/

/-- T-ADD2-wrap and T-ADDk. -/
theorem test_add :
    run [0x38] [0xFF, 0xFF, 0x00, 0x02] [0x00, 0x01] [] 0x0101 none ∧
    run [0x98] [0x03, 0x04] [0x03, 0x04, 0x07] [] 0x0101 none := by decide

/-- T-SUB-neg and T-SUB2-wrap. -/
theorem test_sub :
    run [0x19] [0x03, 0x05] [0xFE] [] 0x0101 none ∧
    run [0x39] [0x00, 0x00, 0x00, 0x01] [0xFF, 0xFF] [] 0x0101 none := by decide

/-- T-MUL-FF and T-MUL2-FFFF. -/
theorem test_mul :
    run [0x1A] [0xFF, 0xFF] [0x01] [] 0x0101 none ∧
    run [0x3A] [0xFF, 0xFF, 0xFF, 0xFF] [0x00, 0x01] [] 0x0101 none := by decide

/-- T-DIV, T-DIV2, T-DIVr. -/
theorem test_div :
    run [0x1B] [0x07, 0x02] [0x03] [] 0x0101 none ∧
    run [0x3B] [0xFF, 0xFF, 0x00, 0x02] [0x7F, 0xFF] [] 0x0101 none ∧
    shows (step (machine [0x5B] Stack.reset (stackOf [0x09, 0x03]))) [] [0x03] 0x0101 none := by decide

/-- T-DIV-zero and T-DIVk-zero. -/
theorem test_div_by_zero :
    run [0x1B] [0x05, 0x00] [] [] 0x0101 (some (.error .divisionByZero)) ∧
    run [0x9B] [0x05, 0x00] [0x05, 0x00] [] 0x0101 (some (.error .divisionByZero)) ∧
    (after (step (machine [0x9B] (stackOf [0x05, 0x00]) Stack.reset))).wst.err = 0x03 := by decide

/-- T-AND2, T-ORA, T-EOR2. -/
theorem test_logic :
    run [0x3C] [0x12, 0x34, 0x0F, 0xF0] [0x02, 0x30] [] 0x0101 none ∧
    run [0x1D] [0xF0, 0x0C] [0xFC] [] 0x0101 none ∧
    run [0x3E] [0x12, 0x34, 0xFF, 0xFF] [0xED, 0xCB] [] 0x0101 none := by decide

/-- T-SFT-both, T-SFT-r8, T-SFT2-l15, T-SFT2-both. -/
theorem test_sft :
    run [0x1F] [0x34, 0x33] [0x30] [] 0x0101 none ∧ run [0x1F] [0xFF, 0x08] [0x00] [] 0x0101 none ∧
    run [0x3F] [0x00, 0x01, 0xF0] [0x80, 0x00] [] 0x0101 none ∧
    run [0x3F] [0x12, 0x34, 0x84] [0x23, 0x00] [] 0x0101 none := by decide

/-! ## File devices -/

/-- The machine of sequences F1 and F4: the path "a" at 0x0300, the bytes 6F 6B at 0x0310, length 2, target 0x0400,
source 0x0310, a virtual file system with the file "a" = "HELLO", and a host that reports each write whole. -/
def fileMachine : State :=
  let s := withPorts (machine [] Stack.reset Stack.reset)
    [(0xA8, 0x03), (0xA9, 0x00), (0xAB, 0x02), (0xAC, 0x04), (0xAE, 0x03), (0xAF, 0x10)]
  { s with
    mem := (Memory.writeBytes [] 0x0300 [0x61]).writeBytes 0x0310 [0x6F, 0x6B]
    outside := { s.outside with files := [([0x61], [0x48, 0x45, 0x4C, 0x4C, 0x4F])], writes := [some 2] } }

/-- The state a trigger of file 0 answers. -/
def triggered (index : BitVec 4) (s : State) : State :=
  match fileTrigger .file0 index s with
  | .ok t => t
  | .error _ => s

/-- F1, steps 3 to 6: the first chunk, then the last byte, then nothing. -/
theorem test_f1_read :
    (triggered 0xC fileMachine).fd0 = .readingFile [0x48, 0x45, 0x4C, 0x4C, 0x4F] 2 ∧
    (triggered 0xC fileMachine).mem.readBytes 0x0400 3 = [0x48, 0x45, 0x00] ∧
    (triggered 0xC fileMachine).port.get 0xA3 = 0x02 ∧
    (triggered 0xC (fileMachine.setFd .file0 (.readingFile [0x48, 0x45, 0x4C, 0x4C, 0x4F] 4))).port.get 0xA3 = 0x01 ∧
    (triggered 0xC (fileMachine.setFd .file0 (.readingFile [0x48, 0x45, 0x4C, 0x4C, 0x4F] 5))).port.get 0xA3 = 0x00 := by
  decide

/-- F2: an entry that does not fit stays at the head of the queue. -/
theorem test_f2_listing :
    takeEntries 10 [[0x30, 0x30, 0x30, 0x35, 0x20, 0x61, 0x0A], [0x30, 0x30, 0x31, 0x30, 0x20, 0x62, 0x62, 0x0A]] =
      ([0x30, 0x30, 0x30, 0x35, 0x20, 0x61, 0x0A], [[0x30, 0x30, 0x31, 0x30, 0x20, 0x62, 0x62, 0x0A]]) ∧
    takeEntries 5 [[0x30, 0x30, 0x30, 0x35, 0x20, 0x61, 0x0A]] = ([], [[0x30, 0x30, 0x30, 0x35, 0x20, 0x61, 0x0A]]) := by
  decide

/-- F3: a line of 7 bytes does not fit in 2, and fits in 7. -/
theorem test_f3_stat :
    (triggered 0x4 { fileMachine with outside :=
      { fileMachine.outside with stats := [some [0x30, 0x30, 0x30, 0x35, 0x20, 0x61, 0x0A]] } }).port.get 0xA3 = 0x00 ∧
    (triggered 0x4 (withPorts { fileMachine with outside :=
      { fileMachine.outside with stats := [some [0x30, 0x30, 0x30, 0x35, 0x20, 0x61, 0x0A]] } }
        [(0xAB, 0x07)])).mem.readBytes 0x0400 7 = [0x30, 0x30, 0x30, 0x35, 0x20, 0x61, 0x0A] := by decide

/-- F4b: the file is created empty and the chunk appended; F4e: with the append flag the old bytes stay. -/
theorem test_f4_write :
    contentsOf (triggered 0xE fileMachine).outside.files [0x61] = some [0x6F, 0x6B] ∧
    (triggered 0xE fileMachine).fd0 = .writing [0x61] ∧ (triggered 0xE fileMachine).port.get 0xA3 = 0x02 ∧
    contentsOf (triggered 0xE (withPorts fileMachine [(0xA7, 0x01)])).outside.files [0x61] =
      some [0x48, 0x45, 0x4C, 0x4C, 0x4F, 0x6F, 0x6B] := by decide

/-- F5: a write to a deleted file reports 0, and the state stays Writing; Delete writes no result. -/
theorem test_f5_delete :
    contentsOf (triggered 0x6 fileMachine).outside.files [0x61] = none ∧
    (triggered 0xE ((triggered 0x6 (withPorts fileMachine [(0xA3, 0x02)])).setFd .file0 (.writing [0x61]))).port.get 0xA3 =
      0x00 ∧
    (triggered 0x6 (withPorts fileMachine [(0xA3, 0x02)])).port.get 0xA3 = 0x02 := by decide

/-- DEO2 of a pointer to port 0xA8 stores it and resets the device, through the whole tick. -/
theorem test_deo2_change_name :
    (after (step ((machine [0x37] (stackOf [0x03, 0x00, 0xA8]) Stack.reset).setFd .file0 (.writing [0x61])))).fd0 = .idle ∧
    (after (step (machine [0x37] (stackOf [0x03, 0x00, 0xA8]) Stack.reset))).port.get 0xA8 = 0x03 := by decide

/-- The console vector: after a Break with a vector and a key, the run goes on there with the key in port 0x12. -/
theorem test_resume :
    shows (step (withPorts { machine [] Stack.reset Stack.reset with
      event := some .brk, outside := { quietHost with keys := [some 0x41] } } [(0x10, 0x01), (0x11, 0x20)])) [] [] 0x0120 none := by decide

/-! ## Witnesses: states and operands that meet the hypotheses of a statement -/

/-- A machine whose source stack in a mode holds some bytes. -/
def onSource (m : Mode) (bytes : List Byte) : State :=
  (machine [] Stack.reset Stack.reset).setStack (srcOf m) (stackOf bytes)

/-- The hypotheses of a stack picture hold on a stack that holds just the operands. -/
abbrev Ready (m : Mode) (operands result : List Byte) : Prop :=
  ((onSource m operands).stack (srcOf m)).items = [] ++ operands ∧ ([] ++ kept m operands ++ result).length ≤ 254

/-- The hypothesis of an instruction that pushes nothing on its source stack. -/
abbrev Holds (m : Mode) (operands : List Byte) : Prop :=
  ((onSource m operands).stack (srcOf m)).items = [] ++ operands

/-- Byte mode. -/
abbrev plain : Mode := ⟨false, false, false⟩

/-- Short mode. -/
abbrev shortMode : Mode := ⟨false, false, true⟩

/-- Keep mode. -/
abbrev keepMode : Mode := ⟨true, false, false⟩

/-- Keep, return and short mode. -/
abbrev allModes : Mode := ⟨true, true, true⟩

theorem witness_DecodeOfEncodeIsInstruction :
    (Instr.lit2 0x1234).wellFormed = true ∧ Instr.sft2kr.wellFormed = true := by decide

theorem witness_DecodedBytesAreEncoding :
    decode [0xE0, 0x12, 0x34, 0x00] = .ok (.lit2r 0x1234, [0x00]) ∧ decode [0xFF] = .ok (.sft2kr, []) := by decide

theorem witness_OpcodeByteIsBaseAndModeBits :
    [Base.inc, .pop, .nip, .swp, .rot, .dup, .ovr, .equ, .neq, .gth, .lth, .jmp, .jcn, .jsr, .sth, .ldz, .stz,
      .ldr, .str, .lda, .sta, .dei, .deo, .add, .sub, .mul, .div, .and, .ora, .eor, .sft][0]? = some Base.inc ∧
    [Base.inc, .pop, .nip, .swp, .rot, .dup, .ovr, .equ, .neq, .gth, .lth, .jmp, .jcn, .jsr, .sth, .ldz, .stz,
      .ldr, .str, .lda, .sta, .dei, .deo, .add, .sub, .mul, .div, .and, .ora, .eor, .sft][30]? = some Base.sft := by
  decide

theorem witness_PushByteWritesAtRealPointer :
    ((machine [] (zeros 254) Stack.reset).stack .wst).ptr = 254 ∧
    ((machine [] (zeros 253) Stack.reset).stack .wst).ptr < 254 := by decide

theorem witness_PushShortWritesBigEndian :
    ((machine [] (zeros 253) Stack.reset).stack .wst).ptr.toNat + 2 > 254 ∧
    ((machine [] (zeros 252) Stack.reset).stack .wst).ptr.toNat + 2 ≤ 254 := by decide

/-- A machine with the keep pointer of the working stack set. -/
def keeping (k : Byte) : State := machine [] { zeros 5 with keep := some k } Stack.reset

theorem witness_PopByteLowersActivePointer :
    ((keeping 0).stack .wst).keep = some 0 ∧ ((keeping 1).stack .wst).keep = some 1 ∧
    ((machine [] (zeros 0) Stack.reset).stack .wst).keep = none ∧
    ((machine [] (zeros 0) Stack.reset).stack .wst).ptr = 0 ∧
    ((machine [] (zeros 1) Stack.reset).stack .wst).ptr ≠ 0 := by decide

theorem witness_PopShortReadsBigEndian :
    ((keeping 1).stack .wst).keep = some 1 ∧ (1 : Byte).toNat < 2 ∧ ((keeping 2).stack .wst).keep = some 2 ∧
    ((machine [] (zeros 1) Stack.reset).stack .wst).keep = none ∧
    ((machine [] (zeros 1) Stack.reset).stack .wst).ptr.toNat < 2 ∧
    2 ≤ ((machine [] (zeros 2) Stack.reset).stack .wst).ptr.toNat := by decide

theorem witness_PushThenPopIsRoundTrip :
    ((machine [] (zeros 252) Stack.reset).stack .wst).keep = none ∧
    ((machine [] (zeros 252) Stack.reset).stack .wst).ptr.toNat + Width.short.bytes ≤ 254 ∧
    ((machine [] (zeros 253) Stack.reset).stack .wst).ptr.toNat + Width.byte.bytes ≤ 254 := by decide

theorem witness_FaultRecordsOnlyItsCode : (0x04 : Byte) ≤ 0x04 ∧ (0x04 : Byte) ≤ 0xFF := by decide

theorem witness_BrkBreaksAndKeepsPc :
    (machine [0x00] Stack.reset Stack.reset).event = none ∧
    (machine [0x00] Stack.reset Stack.reset).mem.read (machine [0x00] Stack.reset Stack.reset).pc = 0x00 ∧
    shows (exec .brk (machine [] Stack.reset Stack.reset)) [] [] 0x0100 (some .brk) = true := by decide

theorem witness_ReservedNoOpsOnlyAdvancePc :
    (machine [0x60] Stack.reset Stack.reset).event = none ∧
    (machine [0x60] Stack.reset Stack.reset).mem.read (machine [0x60] Stack.reset Stack.reset).pc ∈
      [(0x20 : Byte), 0x40, 0x60] := by decide

theorem witness_LitPushesImmediate :
    ((machine [] (zeros 253) (zeros 253)).wst.items ++ [0x11]).length ≤ 254 ∧
    ((machine [] (zeros 252) (zeros 252)).wst.items ++ [hiByte 0x1234, loByte 0x1234]).length ≤ 254 ∧
    ((machine [] (zeros 253) (zeros 253)).rst.items ++ [0x11]).length ≤ 254 ∧
    ((machine [] (zeros 252) (zeros 252)).rst.items ++ [hiByte 0x1234, loByte 0x1234]).length ≤ 254 := by decide +kernel

theorem witness_LitOverflowLeavesPcPastImmediate :
    (machine [] (zeros 254) (zeros 254)).wst.ptr = 254 ∧ (machine [] (zeros 254) (zeros 254)).rst.ptr = 254 ∧
    (machine [] (zeros 253) (zeros 253)).wst.ptr = 253 ∧ (machine [] (zeros 253) (zeros 253)).rst.ptr = 253 := by decide

theorem witness_IncPushesSuccessorAndPopDiscards :
    Ready plain [0xFF] [0x00] ∧ Ready allModes [0xFF, 0xFF] [0x00, 0x00] ∧ Ready keepMode [0x05] [] := by decide

/-- The bound of a stack picture is met by a full stack, whose operand the result replaces. -/
theorem witness_full_stack :
    ((machine [] (zeros 254) Stack.reset).stack (srcOf plain)).items = List.replicate 253 0x00 ++ [0x00] ∧
    (List.replicate 253 (0x00 : Byte) ++ kept plain [0x00] ++ [0x01]).length ≤ 254 := by decide +kernel

theorem witness_NipSwpRotRearrange :
    Ready plain [0x01, 0x02] [0x02] ∧ Ready keepMode [0x01, 0x02] [0x02, 0x01] ∧
    Ready shortMode [0x01, 0x02, 0x03, 0x04, 0x05, 0x06] [0x03, 0x04, 0x05, 0x06, 0x01, 0x02] := by decide

theorem witness_DupAndOvrCopy :
    Ready plain [0x05] [0x05, 0x05] ∧ Ready allModes [0x01, 0x02, 0x03, 0x04] [0x01, 0x02, 0x03, 0x04, 0x01, 0x02] := by
  decide

theorem witness_ComparisonsPushOneBooleanByte :
    Ready plain [0xFF, 0x01] [0x01] ∧ Ready allModes [0x12, 0x34, 0x12, 0x35] [0x00] := by decide

theorem witness_JmpSetsPc : Holds plain [0xFF] ∧ Holds shortMode [hiByte 0x1234, loByte 0x1234] := by decide

theorem witness_JcnJumpsOnNonzeroCondition :
    Holds plain [0x03, 0x01] ∧ Holds shortMode [hiByte 0x0200, loByte 0x0200, 0x80] := by decide

theorem witness_JsrPushesReturnAddress :
    Holds shortMode (valueBytes .short 0x0300) ∧
    ((onSource shortMode [0x03, 0x00]).stack (dstOf shortMode)).items.length + 2 ≤ 254 ∧
    ((machine [] (stackOf [0x10]) (zeros 252)).stack (dstOf plain)).items.length + 2 ≤ 254 := by decide +kernel

theorem witness_JsrAndSthFaultInStatementOrder :
    ((machine [] (stackOf [0x12]) (zeros 253)).stack (dstOf plain)).ptr = 253 ∧
    ((machine [] (stackOf [0x12]) (zeros 254)).stack (dstOf plain)).ptr = 254 ∧
    ((machine [] Stack.reset (zeros 252)).stack (srcOf plain)).ptr.toNat < plain.width.bytes ∧
    ((machine [] Stack.reset (zeros 252)).stack (dstOf plain)).items.length + 2 ≤ 254 ∧
    ((machine [] (stackOf [0x12]) (zeros 254)).stack (srcOf plain)).items = [] ++ valueBytes .byte 0x12 ∧
    ((machine [] (stackOf [0x12]) (zeros 254)).stack (dstOf plain)).ptr.toNat ≤ 254 ∧
    254 < ((machine [] (stackOf [0x12]) (zeros 254)).stack (dstOf plain)).ptr.toNat + plain.width.bytes := by decide +kernel

theorem witness_SthMovesValueToOtherStack :
    ((machine [] (stackOf [0x12]) (zeros 253)).stack (srcOf plain)).items = [] ++ valueBytes .byte 0x12 ∧
    (((machine [] (stackOf [0x12]) (zeros 253)).stack (dstOf plain)).items ++ valueBytes .byte 0x12).length ≤ 254 := by
  decide +kernel

theorem witness_LoadsPushMemoryBytes :
    Ready plain [0x10] [0xAA] ∧ Ready allModes [hiByte 0xFFFF, loByte 0xFFFF] [0xAB, 0xCD] := by decide

theorem witness_StoresWriteOnlyTheirBytes :
    (onSource plain [0xAA, 0x10]).mem.wf ∧ Holds plain (valueBytes .byte 0xAA ++ [0x10]) ∧
    Holds allModes (valueBytes .short 0xABCD ++ [hiByte 0xFFFF, loByte 0xFFFF]) := by decide

theorem witness_ArithmeticWraps :
    Ready plain [0x03, 0x05] [0xFE] ∧ Ready allModes [0xFF, 0xFF, 0x00, 0x02] [0x00, 0x01] := by decide

theorem witness_DivTruncates : (0x02 : Byte).toNat ≠ 0 ∧ Ready plain [0x07, 0x02] [0x03] := by decide

theorem witness_DivByZeroFaults :
    Holds plain (valueBytes .byte 0x05 ++ valueBytes .byte 0) ∧ Holds allModes (valueBytes .short 0x0005 ++ valueBytes .short 0) ∧
    ((onSource plain [0x05, 0x00]).stack (srcOf plain)).ptr ≤ 254 := by decide

theorem witness_LogicIsBitwise :
    Ready plain [0xF0, 0x3C] [0x30] ∧ Ready allModes [0x12, 0x34, 0x0F, 0xF0] [0x02, 0x30] := by decide

theorem witness_SftShiftsRightThenLeft :
    Ready plain [0x34, 0x33] [0x30] ∧ Ready allModes [0x12, 0x34, 0x84] [0x23, 0x00] := by decide

theorem witness_MissingOperandsUnderflow :
    Base.sta ≠ .jsr ∧ ((onSource shortMode [0x02, 0x00, 0x01]).stack (srcOf shortMode)).ptr.toNat <
      operandBytes shortMode.width .sta := by decide

theorem witness_ResultsWithoutRoomOverflow :
    Base.dup ∉ [Base.jsr, .sth] ∧ ((machine [] (zeros 254) Stack.reset).stack (srcOf plain)).ptr.toNat ≤ 254 ∧
    operandBytes plain.width .dup ≤ ((machine [] (zeros 254) Stack.reset).stack (srcOf plain)).ptr.toNat ∧
    254 < ((machine [] (zeros 254) Stack.reset).stack (srcOf plain)).ptr.toNat - operandBytes plain.width .dup +
      resultBytes plain.width .dup := by decide

/-- The same for DIV in keep mode, whose divisor is 0x02. -/
theorem witness_ResultsWithoutRoomOverflow_div :
    (0x02 : Byte).toNat ≠ 0 ∧
    ((machine [] (((zeros 252).put8 0x07).put8 0x02) Stack.reset).stack (srcOf keepMode)).items =
      List.replicate 252 0x00 ++ valueBytes .byte 0x07 ++ valueBytes .byte 0x02 ∧
    254 < ((machine [] (((zeros 252).put8 0x07).put8 0x02) Stack.reset).stack (srcOf keepMode)).ptr.toNat +
      resultBytes keepMode.width .div := by decide +kernel

theorem witness_KeepModeLeavesSourceInPlace :
    keepMode.keep = true ∧ ((onSource keepMode [0x03, 0x04]).stack (srcOf keepMode)).ptr ≤ 254 ∧
    (onSource keepMode [0x03, 0x04]).event = none ∧
    shows (exec (.form .add keepMode) (onSource keepMode [0x03, 0x04])) [0x03, 0x04, 0x07] [] 0x0100 none = true := by decide

theorem witness_FaultLeavesPcPastInstruction :
    (machine [] (zeros 254) Stack.reset).event = none ∧
    (after (exec (.lit 0x11) (machine [] (zeros 254) Stack.reset))).event = some (.error .overflow) ∧
    (after (exec .add (machine [] Stack.reset Stack.reset))).event = some (.error .underflow) := by decide

theorem witness_EachKindOfStateHasItsWriters :
    Instr.add.base ∉ [some Base.stz, some .str, some .sta, some .deo] ∧ Instr.add.base ≠ some .deo ∧
    Instr.add.base ∉ [some Base.dei, some .deo] ∧ Instr.add.base ∉ [some Base.jmp, some .jcn, some .jsr] ∧
    Instr.add.immediate = [] ∧ shows (exec .add (onSource plain [0x03, 0x04])) [0x07] [] 0x0100 none = true := by decide

theorem witness_ParametersNeverChangeAndOnlyDeoHalts :
    run [0x01] [0x05] [0x06] [] 0x0101 none = true ∧
    (after (exec .deo (onSource plain [0x2A, 0x0F]))).event = some (.halt 0x2A) := by decide

theorem witness_DeiPushesStoredPorts :
    Ready shortMode [0xFF] [0x00, 0x00] ∧ slotOf 0xFF ≠ 0xC ∧ slotOf (0xFF + 1) ≠ 0xC ∧ slotOf 0xBE ≠ 0xC ∧
    slotOf (0xBE + 1) ≠ 0xC ∧ slotOf 0xD0 ≠ 0xC := by decide

theorem witness_DeiReadsItsPortsInOrderAndTheClock :
    Holds shortMode [0xC0] ∧ ([] ++ kept shortMode [0xC0]).length + shortMode.width.bytes ≤ 254 ∧
    (0xA : BitVec 4) ≤ 0xA ∧ (0xA : BitVec 4) < 0xB ∧
    (withClock (onSource plain [0xCA])).outside.clocks = .time someReading 3 :: [.failure] ∧
    answer (withClock (onSource plain [0xCA])).outside.clocks Config.clockAnswer 0 = .time someReading 3 ∧
    answer [.failure] Config.clockAnswer 0 = .failure ∧
    (withClock (onSource plain [0xCB])).outside.dtUndefs = 0x5A :: [] ∧
    (TimeSourceChoice.customFromInstant 1000).construct 7 = .customFromInstant 1000 7 := by decide

theorem witness_ClockFieldsAreInRangeAndFailuresReadEpoch :
    [Weekday.monday, .tuesday, .wednesday, .thursday, .friday, .saturday, .sunday][(3 : Fin 7)] = someReading.weekday ∧
    someParams.wellFormed = true ∧ clockField someParams someReading 0x7 = clockField someParams epochReading 0x7 ∧
    (0xA : BitVec 4) ≤ 0xA ∧ (machine [] Stack.reset Stack.reset).timeSource = .utc ∧
    answer [.failure] Config.clockAnswer 0 = .failure ∧
    ∀ instant, TimeSource.utc ≠ .staticInstant instant :=
  ⟨by decide, by decide, by decide, by decide, by decide, by decide, fun _ h => by cases h⟩

theorem witness_DeoToQuietPortOnlyStores :
    Holds plain (valueBytes .byte 0x55 ++ [0x20]) ∧ quietPort 0x20 = true ∧
    Holds shortMode (valueBytes .short 0x1122 ++ [0xFF]) ∧ quietPort 0xFF = true ∧ quietPort (0xFF + 1) = true ∧
    quietPort 0xAF = true ∧ quietPort 0x1A = true := by decide

theorem witness_DeoToSystemPortsHaltsOrShowsStacks : Holds plain [0x2A, 0x0F] ∧ Holds plain [0x01, 0x0E] := by decide

theorem witness_DeoShortStoresBothBytesThenTriggersInOrder :
    Holds shortMode [0x05, 0x06, 0x0F] ∧ Holds shortMode [0x00, 0x01, 0x0E] ∧ Holds shortMode [0x11, 0x22, 0xFF] := by decide

theorem witness_DeoToConsoleWritesItsByte :
    Holds plain [0x41, 0x18] ∧ Holds plain [0x45, 0x19] ∧ Holds shortMode [0x41, 0x45, 0x18] := by decide

theorem witness_DeoStaysWithinItsSlots :
    Holds shortMode ([] ++ valueBytes .short 0x0300 ++ [0xA8]) ∧
    shows (exec .deo2 (onSource shortMode [0x03, 0x00, 0xA8])) [] [] 0x0100 none = true ∧
    slotOf 0x12 ≠ slotOf 0xA8 ∧ slotOf 0x12 ≠ slotOf (0xA8 + 1) ∧ slotOf 0xA8 ≠ 0xB ∧ slotOf (0xA8 + 1) ≠ 0xB := by decide

theorem witness_DeoToFileSlotRunsItsTriggers :
    Holds plain [0x04, FileId.file0.base + BitVec.setWidth 8 (0xC : BitVec 4)] ∧ (0xE : BitVec 4) ≠ 0xF ∧
    Holds shortMode [0x03, 0x10, FileId.file1.base + BitVec.setWidth 8 (0xE : BitVec 4)] := by decide

/-- A path pointer 0xFFFF with a nonzero byte there has no terminator; the path "a" at 0x0300 has one. -/
theorem witness_UnterminatedPathIsRefused :
    filePathPtr .file0 (withPorts { fileMachine with mem := [(0xFFFF, 0x61)] } [(0xA8, 0xFF), (0xA9, 0xFF)]) = 0xFFFF ∧
    Memory.read [(0xFFFF, 0x61)] 0xFFFF ≠ 0 ∧ fileMachine.fd .file0 = .idle ∧
    (filePathPtr .file0 fileMachine).toNat + 1 < 65536 ∧
    fileMachine.mem.read (filePathPtr .file0 fileMachine + BitVec.ofNat 16 1) = 0 ∧
    fileMachine.mem.read (filePathPtr .file0 fileMachine + BitVec.ofNat 16 0) ≠ 0 := by decide

theorem witness_OnlyChangeNameResetsToIdle :
    Holds shortMode [hiByte 0x0300, loByte 0x0300, FileId.file0.base + 0x08] ∧ (0xE : BitVec 4) ≠ 0x8 ∧
    (fileMachine.setFd .file0 (.writing [0x61])).fd .file0 ≠ .idle ∧
    (triggered 0xE (fileMachine.setFd .file0 (.writing [0x61]))).fd0 = .writing [0x61] := by decide

theorem witness_ReadCopiesNextChunk :
    fileMachine.mem.wf ∧
    (fileMachine.setFd .file0 (.readingFile [0x48, 0x45, 0x4C] 1)).fd .file0 = .readingFile [0x48, 0x45, 0x4C] 1 ∧
    1 ≤ [0x48, 0x45, 0x4C].length ∧ 3 ≤ [0x48, 0x45, 0x4C].length ∧
    (fileMachine.setFd .file0 (.readingStats [[0x61, 0x0A], [0x62, 0x0A]])).fd .file0 =
      .readingStats [[0x61, 0x0A], [0x62, 0x0A]] := by decide

theorem witness_ReadsPartitionFilesAndNeverSplitEntries :
    ([0x48, 0x45, 0x4C] : Bytes).length ≤ [2, 0, 1].sum ∧
    ([[0x61, 0x0A], [0x62, 0x0A]] : List Bytes)[1]? = some [0x62, 0x0A] := by decide

theorem witness_ReadFromIdleOpensAndReads :
    fileMachine.mem.wf ∧ fileMachine.fd .file0 = .idle ∧ filePath .file0 fileMachine = some [0x61] ∧
    (hostRead [0x61] fileMachine).1 = .file [0x48, 0x45, 0x4C, 0x4C, 0x4F] ∧
    (hostRead [0x7A] fileMachine).1 = .error ∧
    (hostRead [0x61] { fileMachine with
      params := { someParams with fileIface := .physical, safety := false }
      outside := { quietHost with reads := [.stats [[0x61, 0x0A]]] } }).1 = .stats [[0x61, 0x0A]] := by decide

theorem witness_WriteEntersWritingAndReportsCount :
    fileMachine.fd .file0 = .idle ∧ filePath .file0 fileMachine = some [0x61] ∧ ([0x61] : Bytes) ≠ [] ∧
    filePath .file0 { fileMachine with mem := [] } = some [] ∧
    (fileMachine.setFd .file0 (.writing [0x61])).fd .file0 = .writing [0x61] ∧
    (hostWrite [0x61] [0x6F, 0x6B] fileMachine).1 = some 2 := by decide

theorem witness_StatCopiesLineThatFitsAndDeleteChangesNoCoreState :
    fileMachine.mem.wf ∧ filePath .file0 fileMachine = some [0x61] ∧
    (hostStat [0x61] { fileMachine with outside :=
      { fileMachine.outside with stats := [some [0x61, 0x0A]] } }).1 = some [0x61, 0x0A] ∧
    ([0x61, 0x0A] : Bytes).length ≤ fileLength .file0 fileMachine ∧
    fileLength .file0 fileMachine < ([0x61, 0x61, 0x0A] : Bytes).length ∧ (hostStat [0x7A] fileMachine).1 = none := by decide

theorem witness_CrossTriggerFollowsParameter :
    (fileMachine.setFd .file0 (.writing [0x61])).fd .file0 = .writing [0x61] ∧
    (fileMachine.setFd .file0 (.readingFile [0x61] 1)).fd .file0 = .readingFile [0x61] 1 ∧
    (fileMachine.setFd .file0 (.readingStats [])).fd .file0 = .readingStats [] ∧
    fileMachine.params.crossTrigger = .zeroResult ∧
    { someParams with crossTrigger := CrossTrigger.ignore }.crossTrigger = .ignore ∧
    { someParams with crossTrigger := CrossTrigger.refuse }.crossTrigger = .refuse := by decide

theorem witness_FileInterfaceKeepsItsLaws :
    (hostWrite [0x61] [0x6F, 0x6B] fileMachine).1 = some 2 ∧ fileMachine.params.fileIface = .virtual ∧
    ([0x61] : Bytes) ≠ currentDirectory ∧
    contentsOf fileMachine.outside.files [0x61] = some [0x48, 0x45, 0x4C, 0x4C, 0x4F] ∧
    contentsOf fileMachine.outside.files [0x7A] = none ∧ ([0x7A] : Bytes) ≠ [0x61] ∧
    { someParams with fileIface := FileIface.physical }.fileIface = .physical := by decide

theorem witness_StepRunsDecodedInstruction :
    (machine [0x38] Stack.reset Stack.reset).event = none ∧
    decode (fetchBytes (machine [0x38] Stack.reset Stack.reset)) = .ok (.add2, [0x00, 0x00]) ∧
    decode (fetchBytes (machine [0x00] Stack.reset Stack.reset)) = .ok (.brk, [0x00, 0x00]) ∧
    decode (fetchBytes (machine [0xA0, 0x12, 0x34] Stack.reset Stack.reset)) = .ok (.lit2 0x1234, []) ∧
    Instr.add2.wellFormed = true := by decide

/-- A machine with a byte on its working stack meets the invariant, and its next step answers. -/
theorem witness_StepKeepsInvariant :
    (machine [0x01] (stackOf [0x05]) Stack.reset).Inv ∧ run [0x01] [0x05] [0x06] [] 0x0101 none = true := by
  refine ⟨⟨by decide, by decide, by decide, fun _ => by decide, fun _ h => (by cases h), fun _ => by decide,
    fun _ _ h => (by cases h), fun _ _ h => (by cases h), by decide, fun _ h => (by cases h), fun h => (by cases h),
    fun _ _ h => (by cases h)⟩, by decide⟩

theorem witness_BootLoadsRomIntoResetState :
    ([0x80, 0x01] : List Byte).length ≤ 65280 ∧ 65280 < (List.replicate 65281 (0x00 : Byte)).length := by
  rw [List.length_replicate]
  decide

/-- A machine that has ended in Break, with the console vector 0x0120. -/
def broken (keys : List (Option Byte)) : State :=
  withPorts { machine [] Stack.reset Stack.reset with event := some .brk, outside := { quietHost with keys := keys } }
    [(0x10, 0x01), (0x11, 0x20)]

theorem witness_OnlyBreakWithVectorAndKeyResumes :
    (broken [some 0x41]).event = some .brk ∧
    joinBytes ((broken [some 0x41]).port.get 0x10) ((broken [some 0x41]).port.get 0x11) ≠ 0 ∧
    (broken [some 0x41]).outside.keys = some 0x41 :: [] ∧ (hostKey (broken [some 0x41])).1 = some 0x41 ∧
    (hostKey (broken [none])).1 = none ∧
    (after (step (machine [0x00] Stack.reset Stack.reset))).event = some .brk ∧
    joinBytes ((machine [0x00] Stack.reset Stack.reset).port.get 0x10)
      ((machine [0x00] Stack.reset Stack.reset).port.get 0x11) = 0 ∧
    (after (exec .deo (onSource plain [0x2A, 0x0F]))).event = some (.halt 0x2A) ∧
    (after (exec .add (machine [] Stack.reset Stack.reset))).event = some (.error .underflow) := by decide

theorem witness_MemoryIsBigEndianAndWraps :
    Memory.wf [(0x0010, 0xAA), (0xFFFF, 0x01)] ∧ (0x0010 : Word) ≠ 0xFFFF ∧ (0x0010 : Word) ≠ 0xFFFF + 1 := by decide

end Sys2Proof.Tests
end

section
/-!
PROOFS. The stack primitives and the raising of a fault, each against its rule of spec/10_state.md.
-/

namespace Sys2Proof.Machine

/-! ## Byte order and pointers -/

theorem hiByte_toNat (v : Word) : (hiByte v).toNat = v.toNat / 256 := by
  have := v.isLt
  simp only [hiByte, BitVec.extractLsb'_toNat, Nat.shiftRight_eq_div_pow]
  omega

theorem loByte_toNat (v : Word) : (loByte v).toNat = v.toNat % 256 := by
  simp [loByte, BitVec.extractLsb'_toNat]

theorem ne_255_of_lt {p : Byte} (h : p.toNat < 255) : p ≠ 255 := ne_of_toNat_lt h

theorem ne_add_one (p : Byte) : p ≠ p + 1 := by
  intro h
  have := congrArg BitVec.toNat h
  simp only [BitVec.toNat_add, show (1 : Byte).toNat = 1 from rfl] at this
  omega

theorem active_of_keep_some {st : Stack} {k : Byte} (h : st.keep = some k) : st.active = k := by
  simp [Stack.active, h]

theorem active_of_no_keep {st : Stack} (h : st.keep = none) : st.active = st.ptr := by simp [Stack.active, h]

theorem setActive_of_keep_some {st : Stack} {k : Byte} (h : st.keep = some k) (a : Byte) :
    st.setActive a = { st with keep := some a } := by simp [Stack.setActive, h]

theorem setActive_of_no_keep {st : Stack} (h : st.keep = none) (a : Byte) : st.setActive a = st.poke 255 a := by
  simp [Stack.setActive, h]

/-! ## Pushes -/

@[simp] theorem keep_put (st : Stack) (w : Width) (v : BitVec w.bits) : (st.put w v).keep = st.keep := by
  cases w <;> rfl

theorem put_holdsOver (st : Stack) (w : Width) (v : BitVec w.bits) (hroom : st.ptr.toNat + w.bytes ≤ 254) :
    (st.put w v).HoldsOver (st.items ++ valueBytes w v) st := by
  rw [← length_items] at hroom
  cases w with
  | byte => exact put8_holdsOver (holdsOver_refl st) hroom v
  | short => exact put16_holdsOver (holdsOver_refl st) hroom v

theorem ptr_put (st : Stack) (w : Width) (v : BitVec w.bits) (hroom : st.ptr.toNat + w.bytes ≤ 254) :
    (st.put w v).ptr.toNat = st.ptr.toNat + w.bytes := by
  rw [(put_holdsOver st w v hroom).ptr, List.length_append, length_items, length_valueBytes]

/-- A push of a width that fits goes on with the value on top (R44, R45, R48). -/
theorem push_of_room {S : StackId} {s : State} (w : Width) (v : BitVec w.bits)
    (hroom : (s.stack S).ptr.toNat + w.bytes ≤ 254) (next : State → Result) :
    push S w v s next = next (s.setStack S ((s.stack S).put w v)) := by
  cases w with
  | byte => exact if_neg (ne_of_toNat_lt (show (s.stack S).ptr.toNat < 254 from hroom))
  | short => exact if_neg (Nat.not_lt.2 hroom)

/-- Settles O5: `Stack.put8` writes the byte at the pointer, then the pointer. -/
theorem pushByteWritesAtRealPointer : Obligations.PushByteWritesAtRealPointer := by
  intro S b s
  refine ⟨fun h next => if_pos h, fun h => ?_⟩
  have hlt : (s.stack S).ptr.toNat < 254 := h
  refine ⟨(s.stack S).put8 b, fun next => if_neg (BitVec.ne_of_lt h), ?_, ptr_put _ .byte b hlt, rfl,
    fun k hk hk255 => ?_⟩
  · rw [Stack.put8, get_poke, if_neg (ne_255_of_lt (by omega)), get_poke, if_pos rfl]
  · rw [Stack.put8, get_poke, if_neg hk255, get_poke, if_neg hk]

/-- Settles O6: `Stack.put16` writes the high byte at the pointer, the low byte above it, then the pointer. -/
theorem pushShortWritesBigEndian : Obligations.PushShortWritesBigEndian := by
  intro S v s
  refine ⟨fun h next => if_pos h, fun h => ⟨(s.stack S).put16 v, fun next => if_neg (Nat.not_lt.2 h), ?_, ?_,
    ptr_put _ .short v h, rfl, fun k hk hk1 hk255 => ?_⟩⟩
  · rw [Stack.put16, get_poke, if_neg (ne_255_of_lt (by omega)), get_poke, if_neg (ne_add_one _), get_poke, if_pos rfl,
      hiByte_toNat]
  · have h1 := toNat_add_one (p := (s.stack S).ptr) (by omega)
    rw [Stack.put16, get_poke, if_neg (ne_255_of_lt (by omega)), get_poke, if_pos rfl, loByte_toNat]
  · rw [Stack.put16, get_poke, if_neg hk255, get_poke, if_neg hk1, get_poke, if_neg hk]

/-! ## Pops -/

/-- What lowering the real pointer of a stack leaves: the pointer, no keep pointer, and every other byte (R46, R47). -/
theorem setActive_no_keep_frame {st : Stack} (h : st.keep = none) (a : Byte) :
    (st.setActive a).ptr = a ∧ (st.setActive a).keep = none ∧
      ∀ k : Byte, k ≠ 255 → (st.setActive a).page.get k = st.page.get k := by
  rw [setActive_of_no_keep h]
  exact ⟨ptr_poke_ptr _ _, h, fun k hk => (get_poke _ _ _ _).trans (if_neg hk)⟩

/-- Settles O7: with a keep pointer set or not, by the active pointer it makes. -/
theorem popByteLowersActivePointer : Obligations.PopByteLowersActivePointer := by
  intro S s
  refine ⟨fun k hk => ?_, fun hk => ?_⟩
  · have ha := active_of_keep_some hk
    refine ⟨fun h next => ?_, fun h next => ?_⟩
    · rw [pop8, ha, if_pos h]
    · rw [pop8, ha, if_neg h, setActive_of_keep_some hk]
  · have ha := active_of_no_keep hk
    refine ⟨fun h next => ?_, fun h => ⟨(s.stack S).setActive ((s.stack S).ptr - 1), fun next => ?_,
      setActive_no_keep_frame hk _⟩⟩
    · rw [pop8, ha, if_pos h]
    · rw [pop8, ha, if_neg h]

/-- Settles O8: with a keep pointer set or not, by the active pointer it makes. -/
theorem popShortReadsBigEndian : Obligations.PopShortReadsBigEndian := by
  intro S s
  refine ⟨fun k hk => ?_, fun hk => ?_⟩
  · have ha := active_of_keep_some hk
    refine ⟨fun h next => ?_, fun h => ⟨_, joinBytes_toNat _ _, fun next => ?_⟩⟩
    · rw [pop16, ha, if_pos (BitVec.lt_def.2 h)]
    · rw [pop16, ha, if_neg (BitVec.not_lt.2 h), setActive_of_keep_some hk]
  · have ha := active_of_no_keep hk
    refine ⟨fun h next => ?_, fun h => ⟨_, (s.stack S).setActive ((s.stack S).ptr - 2), joinBytes_toNat _ _,
      fun next => ?_, setActive_no_keep_frame hk _⟩⟩
    · rw [pop16, ha, if_pos (BitVec.lt_def.2 h)]
    · rw [pop16, ha, if_neg (BitVec.not_lt.2 h)]

/-! ## Push, then pop -/

/-- With no keep pointer set, a stack is where a pop begins, with all its bytes to pop (R37). -/
theorem popping_refl {st : Stack} (h : st.keep = none) : Popping false st st st.items :=
  ⟨fun _ _ => rfl, by rw [Stack.activeItems, active_of_no_keep h, items_eq_below], by simp [h], by simp⟩

/-- Settles O9: the pushed bytes are the last of the stack, so the pop takes them and no other. -/
theorem pushThenPopIsRoundTrip : Obligations.PushThenPopIsRoundTrip := by
  intro S w v s hk hroom
  have hpush := put_holdsOver (s.stack S) w v hroom
  have hkeep : ((s.stack S).put w v).keep = none := (keep_put _ w v).trans hk
  have hptr := ptr_put (s.stack S) w v hroom
  have hpop := popping_refl hkeep
  rw [hpush.1] at hpop
  obtain ⟨st, hst, e⟩ := pop_popping (S := S) (s := s.setStack S ((s.stack S).put w v)) w v (by simpa using hpop)
  refine ⟨st, fun next => ?_, hst.holdsOver.1, by simpa using hst.mode, ?_⟩
  · rw [push_of_room w v hroom, e, setStack_setStack]
  · exact (hst.page 254 (by decide)).trans (hpush.2 254 (BitVec.le_def.2 (hptr.trans_le hroom)) (by decide))

/-! ## Faults -/

/-- Settles O10: a fault is one poke of byte 254. -/
theorem faultRecordsOnlyItsCode : Obligations.FaultRecordsOnlyItsCode := by
  refine ⟨rfl, rfl, rfl, rfl, fun kind => by cases kind <;> rfl, rfl, fun b hb => ?_, fun kind S s =>
    ⟨(s.stack S).poke 254 kind.code, rfl, err_poke_err _ _, ptr_poke_err _ _, rfl, fun k hk => ?_⟩⟩
  · have hge (n : Byte) (hn : n < 0x04) : b ≠ n := by
      rintro rfl
      exact absurd hn (BitVec.not_lt.2 hb)
    simp only [FaultKind.ofErrorByte, hge 0x00 (by decide), hge 0x01 (by decide), hge 0x02 (by decide),
      hge 0x03 (by decide), if_false]
  · exact (get_poke _ _ _ _).trans (if_neg hk)

end Sys2Proof.Machine
end

section
/-!
PROOFS. One rule for the meaning of every instruction: what the stack primitives, the jumps, the stores and the device
bus keep of a property of the state in the middle of an instruction, every instruction keeps. The property knows how
many bytes the instruction still has to pop from and to push onto its source stack.
-/

namespace Sys2Proof.Machine

/-! ## The rules of the primitives -/

/-- A pop of a width whose bytes are there goes on, with the active pointer lower (R46, R47). -/
theorem pop_of_le (S : StackId) (w : Width) (s : State) (h : w.bytes ≤ (s.stack S).active.toNat) :
    ∃ (v : BitVec w.bits) (a : Byte), a.toNat + w.bytes = (s.stack S).active.toNat ∧
      ∀ next, pop S w s next = next v (s.setStack S ((s.stack S).setActive a)) := by
  cases w with
  | byte =>
    have h0 : (s.stack S).active ≠ 0 := fun hc => by simp [hc, Width.bytes] at h
    exact ⟨(s.stack S).page.get ((s.stack S).active - 1), _, byte_sub_one_lt h0,
      fun next => by simp only [pop, pop8, h0, if_false]⟩
  | short =>
    have h2 : ¬ (s.stack S).active < 2 := Nat.not_lt.2 h
    refine ⟨joinBytes ((s.stack S).page.get ((s.stack S).active - 2)) ((s.stack S).page.get ((s.stack S).active - 1)),
      (s.stack S).active - 2, ?_, fun next => by simp only [pop, pop16, h2, if_false]⟩
    rw [BitVec.toNat_sub_of_le (Nat.not_lt.1 h2)]
    exact Nat.sub_add_cancel h

/-- What a property `I` of the states in the middle of an instruction in mode `m`, and a property `P` of its answer,
must meet so that the stack primitives lead from the one to the other. `I p q u`: in `u` the instruction has `p` bytes
to pop from its source stack and `q` bytes to push onto it. -/
structure StackRules (m : Mode) (I : Nat → Nat → State → Prop) (P : Result → Prop) : Prop where
  underflow : ∀ (w : Width) (p q : Nat) (u : State), I (w.bytes + p) q u →
    (u.stack (srcOf m)).active.toNat < w.bytes → P (.next (raiseFault .underflow (srcOf m) u))
  popped : ∀ (w : Width) (p q : Nat) (u : State) (a : Byte), I (w.bytes + p) q u →
    a.toNat + w.bytes = (u.stack (srcOf m)).active.toNat →
    I p q (u.setStack (srcOf m) ((u.stack (srcOf m)).setActive a))
  overflow : ∀ (q : Nat) (u : State), I 0 q u → P (.next (raiseFault .overflow (srcOf m) u))
  pushed : ∀ (w : Width) (v : BitVec w.bits) (q : Nat) (u : State), I 0 (w.bytes + q) u →
    ((u.stack (srcOf m)).ptr.toNat ≤ 254 → (u.stack (srcOf m)).ptr.toNat + w.bytes ≤ 254) →
    I 0 q (u.setStack (srcOf m) ((u.stack (srcOf m)).put w v))
  finished : ∀ u : State, I 0 0 u → P (.next (closeKeep u))

/-- The rules of the stack primitives, and those of what the base operation does beside its source stack. -/
structure OpRules (base : Base) (m : Mode) (I : Nat → Nat → State → Prop) (P : Result → Prop) : Prop
    extends StackRules m I P where
  overflowDst : base ∈ [.jsr, .sth] → ∀ (p q : Nat) (u : State), I p q u →
    P (.next (raiseFault .overflow (dstOf m) u))
  pushedDst : base ∈ [.jsr, .sth] → ∀ (w : Width) (v : BitVec w.bits) (p q : Nat) (u : State), I p q u →
    ((u.stack (dstOf m)).ptr.toNat ≤ 254 → (u.stack (dstOf m)).ptr.toNat + w.bytes ≤ 254) →
    I p q (u.setStack (dstOf m) ((u.stack (dstOf m)).put w v))
  divided : base = .div → ∀ (q : Nat) (u : State), I 0 q u → P (.next (raiseFault .divisionByZero (srcOf m) u))
  jumped : base ∈ [.jmp, .jcn, .jsr] → ∀ (pc : Word) (u : State), I 0 0 u → I 0 0 { u with pc := pc }
  stored : base ∈ [.stz, .str, .sta] → ∀ (a : Word) (v : BitVec m.width.bits) (u : State), I 0 0 u →
    I 0 0 { u with mem := u.mem.writeW a m.width v }
  input : base = .dei → ∀ (port : Byte) (q : Nat) (u : State), I 0 q u → I 0 q (devInW port m.width u).2
  refused : base = .deo → ∀ r, P (.refused r)
  output : base = .deo → ∀ (slots : List (BitVec 4)) (halt : Option Byte) (u t : State), I 0 0 u →
    BusFrame slots u t → HaltIn t halt → P (finishHalt halt t)

section Rules

variable {m : Mode} {base : Base} {I : Nat → Nat → State → Prop} {P : Result → Prop} {p q k : Nat} {u : State}

theorem StackRules.pop (h : StackRules m I P) (w : Width) {next : BitVec w.bits → State → Result} (hI : I k q u)
    (hk : k = w.bytes + p) (ok : ∀ v u, I p q u → P (next v u)) : P (Machine.pop (srcOf m) w u next) := by
  subst hk
  by_cases hlt : (u.stack (srcOf m)).active.toNat < w.bytes
  · rw [pop_underflow _ _ _ hlt]
    exact h.underflow w p q u hI hlt
  · obtain ⟨v, a, ha, e⟩ := pop_of_le (srcOf m) w u (Nat.not_lt.1 hlt)
    rw [e]
    exact ok v _ (h.popped w p q u a hI ha)

theorem StackRules.pop8 (h : StackRules m I P) {next : Byte → State → Result} (hI : I k q u) (hk : k = 1 + p)
    (ok : ∀ v u, I p q u → P (next v u)) : P (Machine.pop8 (srcOf m) u next) :=
  h.pop .byte hI hk ok

theorem StackRules.pop16 (h : StackRules m I P) {next : Word → State → Result} (hI : I k q u) (hk : k = 2 + p)
    (ok : ∀ v u, I p q u → P (next v u)) : P (Machine.pop16 (srcOf m) u next) :=
  h.pop .short hI hk ok

theorem StackRules.push (h : StackRules m I P) (w : Width) (v : BitVec w.bits) {next : State → Result} (hI : I 0 k u)
    (hk : k = w.bytes + q) (ok : ∀ u, I 0 q u → P (next u)) : P (Machine.push (srcOf m) w v u next) := by
  subst hk
  rcases push_cases (srcOf m) w v u next with e | ⟨hroom, e⟩
  · rw [e]
    exact h.overflow _ u hI
  · rw [e]
    exact ok _ (h.pushed w v q u hI hroom)

theorem OpRules.pushDst (h : OpRules base m I P) (hb : base ∈ [.jsr, .sth]) (w : Width) (v : BitVec w.bits)
    {next : State → Result} (hI : I p q u) (ok : ∀ u, I p q u → P (next u)) :
    P (Machine.push (dstOf m) w v u next) := by
  rcases push_cases (dstOf m) w v u next with e | ⟨hroom, e⟩
  · rw [e]
    exact h.overflowDst hb p q u hI
  · rw [e]
    exact ok _ (h.pushedDst hb w v p q u hI hroom)

theorem OpRules.pushDst16 (h : OpRules base m I P) (hb : base ∈ [.jsr, .sth]) (v : Word) {next : State → Result}
    (hI : I p q u) (ok : ∀ u, I p q u → P (next u)) : P (Machine.push16 (dstOf m) v u next) :=
  h.pushDst hb .short v hI ok

/-! ## The rules of the operations -/

theorem StackRules.nopOp (h : StackRules m I P) {s : State} (hI : I 0 0 (selectKeep m s)) : P (nopOp m s) :=
  h.finished _ hI

theorem StackRules.litOp (h : StackRules m I P) {s : State} (imm : BitVec m.width.bits)
    (hI : I 0 m.width.bytes { selectKeep m s with pc := s.pc + BitVec.ofNat 16 m.width.bytes }) :
    P (litOp m imm s) :=
  h.push _ imm hI rfl h.finished

theorem StackRules.binaryOp (h : StackRules m I P) (op : (n : Nat) → (b a : BitVec n) → BitVec n) {s : State}
    (hI : I (2 * m.width.bytes) m.width.bytes (selectKeep m s)) : P (binaryOp op m s) :=
  h.pop _ hI (Nat.two_mul _) fun _ _ hI =>
  h.pop _ hI rfl fun _ _ hI =>
  h.push _ _ hI rfl h.finished

theorem StackRules.compareOp (h : StackRules m I P) (holds : (n : Nat) → (b a : BitVec n) → Bool) {s : State}
    (hI : I (2 * m.width.bytes) 1 (selectKeep m s)) : P (compareOp holds m s) :=
  h.pop _ hI (Nat.two_mul _) fun _ _ hI =>
  h.pop _ hI rfl fun _ _ hI =>
  h.push .byte _ hI rfl h.finished

theorem StackRules.loadFrom (h : StackRules m I P) (a : Word) (hI : I 0 m.width.bytes u) : P (loadFrom m a u) :=
  h.push _ _ hI rfl h.finished

theorem OpRules.storeTo (h : OpRules base m I P) (hb : base ∈ [.stz, .str, .sta]) (a : Word)
    (hI : I m.width.bytes 0 u) : P (storeTo m a u) :=
  h.pop _ hI rfl fun v u hI => h.finished _ (h.stored hb a v u hI)

theorem OpRules.divOp (h : OpRules .div m I P) {s : State}
    (hI : I (2 * m.width.bytes) m.width.bytes (selectKeep m s)) : P (divOp m s) := by
  refine h.pop _ hI (Nat.two_mul _) fun a u hI => h.pop _ (p := 0) hI rfl fun b u hI => ?_
  show P (if _ then _ else _)
  split
  · rw [raiseFault_reportDivideByZero]
    exact h.divided rfl _ u hI
  · exact h.push _ _ hI rfl h.finished

theorem OpRules.deoOp (h : OpRules .deo m I P) {s : State} (hI : I (1 + m.width.bytes) 0 (selectKeep m s)) :
    P (deoOp m s) := by
  refine h.pop8 hI rfl fun p u hI => h.pop _ (p := 0) hI rfl fun v u hI => ?_
  rcases devOutW_cases p m.width v u with ⟨r, e⟩ | ⟨halt, t, e, hf, hh⟩
  · rw [e]
    exact h.refused rfl r
  · rw [e]
    exact h.output rfl _ halt u t hI hf hh

/-- The rule of the base operations: where the keep selection leaves a state that meets `I`, with all that the operation
pops and pushes still to do, its answer meets `P`. -/
theorem OpRules.baseOp (h : OpRules base m I P) {s : State}
    (hI : I (operandBytes m.width base) (resultBytes m.width base) (selectKeep m s)) : P (baseOp base m s) := by
  have three (n : Nat) : 3 * n = n + (n + n) := by omega
  cases base with
  | inc => exact h.pop _ hI rfl fun _ _ hI => h.push _ _ hI rfl h.finished
  | pop => exact h.pop _ hI rfl fun _ _ hI => h.finished _ hI
  | nip =>
    exact h.pop _ hI (Nat.two_mul _) fun _ _ hI => h.pop _ hI rfl fun _ _ hI => h.push _ _ hI rfl h.finished
  | swp =>
    exact h.pop _ hI (Nat.two_mul _) fun _ _ hI => h.pop _ hI rfl fun _ _ hI =>
      h.push _ _ hI (Nat.two_mul _) fun _ hI => h.push _ _ hI rfl h.finished
  | rot =>
    exact h.pop _ hI (three _) fun _ _ hI => h.pop _ hI rfl fun _ _ hI => h.pop _ hI rfl fun _ _ hI =>
      h.push _ _ hI (three _) fun _ hI => h.push _ _ hI rfl fun _ hI => h.push _ _ hI rfl h.finished
  | dup =>
    exact h.pop _ hI rfl fun _ _ hI =>
      h.push _ _ hI (Nat.two_mul _) fun _ hI => h.push _ _ hI rfl h.finished
  | ovr =>
    exact h.pop _ hI (Nat.two_mul _) fun _ _ hI => h.pop _ hI rfl fun _ _ hI =>
      h.push _ _ hI (three _) fun _ hI => h.push _ _ hI rfl fun _ hI => h.push _ _ hI rfl h.finished
  | equ => exact h.compareOp (fun _ b a => b == a) hI
  | neq => exact h.compareOp (fun _ b a => b != a) hI
  | gth => exact h.compareOp (fun _ b a => a.ult b) hI
  | lth => exact h.compareOp (fun _ b a => b.ult a) hI
  | jmp => exact h.pop _ hI rfl fun _ u hI => h.finished _ (h.jumped (by decide) _ u hI)
  | jcn =>
    exact h.pop8 hI rfl fun c _ hI => h.pop _ hI rfl fun t u hI =>
      h.finished _ (h.jumped (by decide) (if conditionHolds c then jumpTarget u.pc m.width t else u.pc) u hI)
  | jsr =>
    exact h.pushDst16 (by decide) s.pc hI fun _ hI =>
      h.pop _ hI rfl fun t u hI => h.finished _ (h.jumped (by decide) (jumpTarget u.pc m.width t) u hI)
  | sth => exact h.pop _ hI rfl fun _ _ hI => h.pushDst (by decide) _ _ hI h.finished
  | ldz | ldr => exact h.pop8 hI rfl fun _ _ hI => h.loadFrom _ hI
  | lda => exact h.pop16 hI rfl fun _ _ hI => h.loadFrom _ hI
  | stz | str => exact h.pop8 hI rfl fun _ _ hI => h.storeTo (by decide) _ hI
  | sta => exact h.pop16 hI rfl fun _ _ hI => h.storeTo (by decide) _ hI
  | dei =>
    exact h.pop8 hI rfl fun _ _ hI => h.push _ _ (h.input rfl _ _ _ hI) rfl h.finished
  | deo => exact h.deoOp hI
  | add => exact h.binaryOp (fun _ b a => b + a) hI
  | sub => exact h.binaryOp (fun _ b a => b - a) hI
  | mul => exact h.binaryOp (fun _ b a => b * a) hI
  | and => exact h.binaryOp (fun _ b a => b &&& a) hI
  | ora => exact h.binaryOp (fun _ b a => b ||| a) hI
  | eor => exact h.binaryOp (fun _ b a => b ^^^ a) hI
  | div => exact h.divOp hI
  | sft => exact h.pop8 hI rfl fun c _ hI => h.pop _ hI rfl fun v _ hI => h.push _ (shiftValue v c) hI rfl h.finished

/-- The rule of every instruction: BRK on its own, the no-ops and the LIT forms by the rules of the stack primitives,
and a form by those of its base operation. -/
theorem exec_of_rules {i : Instr} {s : State} (brk : P (.next { s with event := some .brk }))
    (stack : ∀ m, StackRules m I P) (op : ∀ base m, i.base = some base → OpRules base m I P)
    (start : ∀ m p q, I p q (selectKeep m s)) (jumped : ∀ (pc : Word) (q : Nat) (u : State), I 0 q u →
      I 0 q { u with pc := pc }) : P (exec i s) := by
  have lit (m : Mode) (imm : BitVec m.width.bits) : P (Machine.litOp m imm s) :=
    (stack m).litOp imm (jumped _ _ _ (start m 0 _))
  rcases i.special_or_form with hi | ⟨base, m, rfl⟩
  · cases hi with
    | brk => exact brk
    | nop20 | nop40 | nop60 => exact (stack _).nopOp (start _ 0 0)
    | lit b => exact lit ⟨true, false, false⟩ b
    | lit2 v => exact lit ⟨true, false, true⟩ v
    | litr b => exact lit ⟨true, true, false⟩ b
    | lit2r v => exact lit ⟨true, true, true⟩ v
  · rw [exec_form]
    exact (op base m (Instr.base_form base m)).baseOp (start m _ _)

end Rules

/-- A step that has a next state is a tick while the run goes on, or the host's resumption after a Break (R168,
R502). -/
theorem step_next_cases {s t : State} (h : step s = .next t) :
    (s.event = none ∧ tick s = .next t) ∨ (s.event = some .brk ∧ resume s = .next t) := by
  cases he : s.event with
  | none => exact .inl ⟨rfl, step_of_running he ▸ h⟩
  | some event =>
    cases event with
    | brk => exact .inr ⟨rfl, step_of_brk he ▸ h⟩
    | halt code => simp [step_of_halt he] at h
    | error kind => simp [step_of_error he] at h

end Sys2Proof.Machine
end

section
/-!
PROOFS. The invariant: reset meets it and every step keeps it; and what the launch of a ROM adds to reset. In the
middle of an instruction the part of the invariant that speaks of a run that goes on is `State.Sound`; every primitive
keeps that part, and a state that meets it meets the invariant once the tick ends, with any event the machine can raise.
-/

namespace Sys2Proof.Machine

/-- The invariant of a run that no fault has ended, without what it says of the event; the keep pointers may be set
(R35, R36, R41, R397, R550). -/
structure State.Sound (u : State) : Prop where
  memory  : u.mem.wf
  wst     : u.wst.Sound
  rst     : u.rst.Sound
  cursor0 : ∀ bytes cursor, u.fd0 = .readingFile bytes cursor → cursor ≤ bytes.length
  cursor1 : ∀ bytes cursor, u.fd1 = .readingFile bytes cursor → cursor ≤ bytes.length
  params  : u.params.wellFormed = true
  anchor  : ∀ baseline anchor, u.timeSource = .customFromInstant baseline anchor → anchor ≤ u.outside.monotonic

/-! ## Between the invariant and the sound states -/

theorem Stack.sound_of_keep_none {st : Stack} (hp : st.ptr ≤ 254) (he : st.err = 0) (hk : st.keep = none) :
    st.Sound :=
  ⟨hp, he, fun k hc => by simp [hk] at hc⟩

theorem State.Inv.sound {s : State} (h : s.Inv) (hn : NotErrored s) : s.Sound :=
  ⟨h.memory, Stack.sound_of_keep_none h.wstPointer (h.noError hn).1 (h.keepsClear hn).1,
    Stack.sound_of_keep_none h.rstPointer (h.noError hn).2 (h.keepsClear hn).2, h.cursor0, h.cursor1, h.params,
    h.anchor⟩

/-- A sound state with its keep pointers clear meets the invariant, with no event, Break, or Halt of a nonzero byte. -/
theorem State.Sound.inv {u : State} (h : u.Sound) (hw : u.wst.keep = none) (hr : u.rst.keep = none)
    (hn : NotErrored u) (hh : ∀ code, u.event = some (.halt code) → code ≠ 0) : u.Inv :=
  ⟨h.memory, h.wst.ptr, h.rst.ptr, fun _ => ⟨h.wst.err, h.rst.err⟩, fun kind hc => absurd hc (hn kind),
    fun _ => ⟨hw, hr⟩, h.cursor0, h.cursor1, h.params, hh, hn .unknown, h.anchor⟩

theorem notErrored_of_event_none {s : State} (h : s.event = none) : NotErrored s := by simp [NotErrored, h]

theorem Stack.Sound.ptr_poke_err {st : Stack} (h : st.Sound) (b : Byte) : (st.poke 254 b).ptr ≤ 254 :=
  (congrArg (· ≤ (254 : Byte)) (Machine.ptr_poke_err st b)).mpr h.ptr

/-- A fault of a known kind, raised in a sound state, leaves the invariant (R492, R493, R494). -/
theorem State.Sound.inv_raiseFault {u : State} (h : u.Sound) {kind : FaultKind} (hk : kind ≠ .unknown) (S : StackId) :
    (raiseFault kind S u).Inv := by
  have hne : ¬ NotErrored (raiseFault kind S u) := fun hn => hn kind rfl
  refine ⟨by simpa using h.memory, ?_, ?_, fun hn => absurd hn hne, ?_, fun hn => absurd hn hne,
    by simpa using h.cursor0, by simpa using h.cursor1, by simpa using h.params, fun code hc => ?_, fun hc => ?_,
    by simpa using h.anchor⟩
  · cases S
    exacts [h.wst.ptr_poke_err _, h.wst.ptr]
  · cases S
    exacts [h.rst.ptr, h.rst.ptr_poke_err _]
  · intro kind' hc
    obtain rfl : kind = kind' := by simpa [raiseFault] using hc
    cases S
    exacts [.inl (err_poke_err _ _), .inr (err_poke_err _ _)]
  · simp [raiseFault] at hc
  · exact hk (by simpa [raiseFault] using hc)

/-! ## What keeps a state sound -/

theorem State.Sound.stack {u : State} (h : u.Sound) (S : StackId) : (u.stack S).Sound := by
  cases S
  exacts [h.wst, h.rst]

theorem State.Sound.setStack {u : State} (h : u.Sound) (S : StackId) {st : Stack} (hst : st.Sound) :
    (u.setStack S st).Sound := by
  cases S
  · exact { h with wst := hst }
  · exact { h with rst := hst }

theorem State.Sound.with_keep {u : State} (h : u.Sound) (S : StackId) {k : Option Byte}
    (hk : ∀ a, k = some a → a.toNat ≤ 254) : (u.setStack S { u.stack S with keep := k }).Sound :=
  h.setStack S ⟨(h.stack S).ptr, (h.stack S).err, hk⟩

theorem State.Sound.selectKeep {u : State} (h : u.Sound) (m : Mode) : (selectKeep m u).Sound := by
  unfold Machine.selectKeep
  split
  · exact h.with_keep _ fun a ha => Option.some.inj ha ▸ (h.stack _).ptr
  · exact h.with_keep _ fun a ha => by cases ha

theorem State.Sound.closeKeep {u : State} (h : u.Sound) : (closeKeep u).Sound :=
  (h.with_keep .wst fun _ ha => by cases ha).with_keep .rst fun _ ha => by cases ha

theorem State.Sound.put {u : State} (h : u.Sound) (S : StackId) (w : Width) (v : BitVec w.bits)
    (hroom : (u.stack S).ptr.toNat ≤ 254 → (u.stack S).ptr.toNat + w.bytes ≤ 254) :
    (u.setStack S ((u.stack S).put w v)).Sound :=
  h.setStack S ((h.stack S).put w v (hroom (h.stack S).ptr))

/-- What changes only the host side keeps a state sound, where it does not turn the monotonic clock back (R397). -/
theorem State.Sound.outside {u : State} (h : u.Sound) {o : Outside} (ho : u.outside.monotonic ≤ o.monotonic) :
    State.Sound { u with outside := o } :=
  { h with anchor := fun baseline anchor hc => (h.anchor baseline anchor hc).trans ho }

theorem State.Sound.output {u t : State} {slots : List (BitVec 4)} (h : u.Sound) (hf : BusFrame slots u t) : t.Sound :=
  ⟨hf.mem h.memory, hf.wst ▸ h.wst, hf.rst ▸ h.rst, hf.cursor0 h.cursor0, hf.cursor1 h.cursor1,
    hf.params ▸ h.params, by rw [hf.timeSource, hf.monotonic]; exact h.anchor⟩

/-! ## Instructions and steps -/

/-- In the middle of an instruction the state is sound and the run goes on. -/
def Going (_ _ : Nat) (u : State) : Prop := u.Sound ∧ u.event = none

/-- An answer that is a next state meets the invariant. -/
def LeavesInv (r : Result) : Prop := ∀ t, r = .next t → t.Inv

theorem leavesInv_next {t : State} (h : t.Inv) : LeavesInv (.next t) := fun _ ht => Host.Outcome.next.inj ht ▸ h

theorem State.Sound.inv_closeKeep {u : State} (h : u.Sound) (he : u.event = none) : (Machine.closeKeep u).Inv :=
  h.closeKeep.inv rfl rfl (notErrored_of_event_none he) fun code hc => by simp [he] at hc

theorem stackRules_going (m : Mode) : StackRules m Going LeavesInv where
  underflow _ _ _ _ := fun ⟨h, _⟩ _ => leavesInv_next (h.inv_raiseFault (by decide) _)
  popped _ _ _ _ a := fun ⟨h, he⟩ ha => ⟨h.setStack _ ((h.stack _).setActive (by omega)), by simpa using he⟩
  overflow _ _ := fun ⟨h, _⟩ => leavesInv_next (h.inv_raiseFault (by decide) _)
  pushed w v _ _ := fun ⟨h, he⟩ hroom => ⟨h.put _ w v hroom, by simpa using he⟩
  finished _ := fun ⟨h, he⟩ => leavesInv_next (h.inv_closeKeep he)

theorem leavesInv_finishHalt {t : State} {halt : Option Byte} (h : t.Sound) (he : t.event = none)
    (hh : HaltIn t halt) : LeavesInv (finishHalt halt t) := by
  cases halt with
  | none => exact leavesInv_next (h.inv_closeKeep he)
  | some c =>
    refine leavesInv_next (State.Sound.inv { h.closeKeep with } rfl rfl ?_ fun code hc => ?_)
    · simp [NotErrored]
    · obtain rfl : c = code := by simpa using hc
      exact (hh c rfl).1

theorem opRules_going (base : Base) (m : Mode) : OpRules base m Going LeavesInv where
  toStackRules := stackRules_going m
  overflowDst _ _ _ _ := fun ⟨h, _⟩ => leavesInv_next (h.inv_raiseFault (by decide) _)
  pushedDst _ w v _ _ _ := fun ⟨h, he⟩ hroom => ⟨h.put _ w v hroom, by simpa using he⟩
  divided _ _ _ := fun ⟨h, _⟩ => leavesInv_next (h.inv_raiseFault (by decide) _)
  jumped _ _ _ := fun ⟨h, he⟩ => ⟨{ h with }, he⟩
  stored _ _ _ _ := fun ⟨h, he⟩ => ⟨{ h with memory := Memory.writeW_wf h.memory _ _ _ }, he⟩
  input _ port _ u := fun ⟨h, he⟩ => by
    obtain ⟨o, ho, hm⟩ := devInW_snd port m.width u
    rw [ho]
    exact ⟨h.outside hm, he⟩
  refused _ _ := fun t ht => by cases ht
  output _ _ _ _ _ := fun ⟨h, he⟩ hf hh => leavesInv_finishHalt (h.output hf) (hf.event.trans he) hh

theorem exec_leavesInv {s : State} (i : Instr) (h : s.Inv) (he : s.event = none) : LeavesInv (exec i s) := by
  have hn := notErrored_of_event_none he
  have hs := h.sound hn
  have hk := h.keepsClear hn
  have hbrk : State.Inv { s with event := some .brk } :=
    State.Sound.inv { hs with } hk.1 hk.2 (by simp [NotErrored]) (by simp)
  exact exec_of_rules (leavesInv_next hbrk) stackRules_going (fun base m _ => opRules_going base m)
    (fun m _ _ => ⟨hs.selectKeep m, by simpa using he⟩) fun _ _ _ hu => ⟨{ hu.1 with }, hu.2⟩

theorem tick_leavesInv {s : State} (h : s.Inv) (he : s.event = none) : LeavesInv (tick s) := by
  rcases tick_cases s with ⟨-, e⟩ | ⟨-, e⟩
  · rw [e]
    exact exec_leavesInv _ h he
  · rw [e]
    exact exec_leavesInv _ { h with } he

theorem resume_leavesInv {s : State} (h : s.Inv) (he : s.event = some .brk) : LeavesInv (resume s) := by
  have hn : NotErrored s := by simp [NotErrored, he]
  have hk := h.keepsClear hn
  rcases resume_cases s with e | e | ⟨key, o, -, hm, e⟩ <;> rw [e]
  · exact fun t ht => by cases ht
  · exact fun t ht => by cases ht
  · have hs : State.Sound { s with outside := o } := (h.sound hn).outside hm.ge
    exact leavesInv_next (State.Sound.inv { hs with } hk.1 hk.2 (by simp [NotErrored]) (by simp))

/-- Settles O56: a tick keeps the invariant by the rule of every instruction, a resumption because it touches only the
ports, pc and the host side, and no step follows a Halt or an Error. -/
theorem stepKeepsInvariant : Obligations.StepKeepsInvariant := by
  intro s t h hstep
  rcases step_next_cases hstep with ⟨he, htick⟩ | ⟨he, hresume⟩
  · exact tick_leavesInv h he t htick
  · exact resume_leavesInv h he t hresume

theorem stack_reset_sound : Stack.reset.Sound := Stack.sound_of_keep_none (by simp [Stack.ptr, Stack.reset])
  (by simp [Stack.err, Stack.reset]) rfl

/-- A CustomFromInstant source captures the monotonic clock as it stands, so its anchor is no later (R42, R397). -/
theorem anchor_construct (choice : TimeSourceChoice) (monotonic : Nat) {baseline : Int} {anchor : Nat}
    (h : choice.construct monotonic = .customFromInstant baseline anchor) : anchor = monotonic := by
  cases choice <;> cases h
  rfl

theorem sound_reset : State.reset.Sound where
  memory := wf_nil
  wst := stack_reset_sound
  rst := stack_reset_sound
  cursor0 _ _ h := by cases h
  cursor1 _ _ h := by cases h
  params := Params.lawful_wellFormed _
  anchor _ _ h := (anchor_construct _ _ h).le

/-- Settles O57: the reset state is sound, its keep pointers are clear, and its run goes on. -/
theorem resetHasInvariant : Obligations.ResetHasInvariant :=
  sound_reset.inv rfl rfl (notErrored_of_event_none rfl) fun _ h => by cases h

/-! ## The launch of a ROM -/

/-- A copy of at most 65,280 bytes into empty memory from 0x0100 on does not wrap: an address below reads 0x00, and one
above reads its byte of the copy, 0x00 past the end (R541, D2). -/
theorem read_writeBytes_nil (rom : Bytes) (hlen : rom.length ≤ 65280) (a : Word) :
    (Memory.writeBytes [] 0x0100 rom).read a = if 0x100 ≤ a.toNat then rom.getD (a.toNat - 0x100) 0 else 0 := by
  have ha := a.isLt
  have haddr (k : Nat) (hk : k < rom.length) : ((0x0100 : Word) + BitVec.ofNat 16 k).toNat = 0x100 + k := by
    rw [BitVec.toNat_add, BitVec.toNat_ofNat, show (0x0100 : Word).toNat = 0x100 from rfl]
    omega
  by_cases hin : 0x100 ≤ a.toNat ∧ a.toNat - 0x100 < rom.length
  · obtain ⟨hle, hk⟩ := hin
    have e : a = 0x0100 + BitVec.ofNat 16 (a.toNat - 0x100) := BitVec.eq_of_toNat_eq (by rw [haddr _ hk]; omega)
    conv_lhs => rw [e]
    rw [Memory.read_writeBytes wf_nil _ _ (by omega) _ hk, if_pos hle, List.getD_eq_getElem _ _ hk]
  · rw [Memory.read_writeBytes_of_outside wf_nil]
    · show (0 : Byte) = _
      split
      · next hle => rw [List.getD_eq_default _ _ (by omega)]
      · rfl
    · rintro k hk rfl
      rw [haddr k hk] at hin
      omega

/-- Settles O58: the launch is the reset state with the ROM copied into its memory. -/
theorem bootLoadsRomIntoResetState : Obligations.BootLoadsRomIntoResetState := by
  intro rom
  refine ⟨fun hlen => ?_, fun hlen => ?_⟩
  · exact ⟨_, if_pos (by simpa [romWellFormed] using hlen), rfl, rfl, read_writeBytes_nil rom hlen,
      fun k => ⟨Page.get_zero k, Page.get_zero k, Page.get_zero k⟩, rfl, rfl, rfl, rfl, rfl⟩
  · exact if_neg (by simpa [romWellFormed] using hlen)

end Sys2Proof.Machine
end

section
/-!
PROOFS. What an instruction does to its source stack and to the parameters, by the rule of every instruction: results
that do not fit overflow, keep mode leaves the stack in place, and nothing changes a parameter.
-/

namespace Sys2Proof.Machine

theorem stack_congr {s t : State} (hw : t.wst = s.wst) (hr : t.rst = s.rst) (S : StackId) : t.stack S = s.stack S := by
  cases S
  exacts [hw, hr]

/-! ## Results that do not fit -/

/-- Of `s`, nothing but the source stack, the event and the host side has changed in `u`. -/
structure OnlySource (m : Mode) (s u : State) : Prop where
  dst  : u.stack (dstOf m) = s.stack (dstOf m)
  pc   : u.pc = s.pc
  mem  : u.mem = s.mem
  port : u.port = s.port
  fd0  : u.fd0 = s.fd0
  fd1  : u.fd1 = s.fd1

theorem OnlySource.refl (m : Mode) (s : State) : OnlySource m s s := ⟨rfl, rfl, rfl, rfl, rfl, rfl⟩

theorem OnlySource.setStack {m : Mode} {s u : State} (h : OnlySource m s u) (st : Stack) :
    OnlySource m s (u.setStack (srcOf m) st) := by
  constructor <;> simp [h.dst, h.pc, h.mem, h.port, h.fd0, h.fd1]

/-- The answer is Error(Overflow) on the source stack, and only that stack and the host side have changed. -/
def OverflowsSource (m : Mode) (s : State) (r : Result) : Prop :=
  ∃ t, r = .next t ∧ t.event = some (.error .overflow) ∧ (t.stack (srcOf m)).err = 0x02 ∧
    (t.stack (srcOf m)).ptr ≤ 254 ∧ OnlySource m s t

theorem overflowsSource_raiseFault {m : Mode} {s u : State} (h : OnlySource m s u)
    (hp : (u.stack (srcOf m)).ptr.toNat ≤ 254) :
    OverflowsSource m s (.next (raiseFault .overflow (srcOf m) u)) := by
  have hsrc : (raiseFault .overflow (srcOf m) u).stack (srcOf m) = (u.stack (srcOf m)).poke 254 0x02 :=
    (stack_congr rfl rfl _).trans (stack_setStack_self _ _ _)
  refine ⟨_, rfl, rfl, ?_, ?_, ?_⟩
  · rw [hsrc]
    exact err_poke_err _ _
  · rw [hsrc, show ((u.stack (srcOf m)).poke 254 0x02).ptr = _ from ptr_poke_err _ _]
    exact hp
  · exact { h.setStack _ with dst := (stack_congr rfl rfl _).trans (h.setStack _).dst }

/-- In `u` the operands still to pop are there, and the results still to push will not fit. -/
structure LacksRoom (m : Mode) (s : State) (p q : Nat) (u : State) : Prop where
  same  : OnlySource m s u
  mode  : (u.stack (srcOf m)).keep.isSome = m.keep
  there : p ≤ (u.stack (srcOf m)).active.toNat
  ptr   : (u.stack (srcOf m)).ptr.toNat ≤ 254
  lacks : 254 < (u.stack (srcOf m)).ptr.toNat - (if m.keep then 0 else p) + q

theorem LacksRoom.popped {m : Mode} {s u : State} {w : Width} {p q : Nat} {a : Byte}
    (h : LacksRoom m s (w.bytes + p) q u) (ha : a.toNat + w.bytes = (u.stack (srcOf m)).active.toNat) :
    LacksRoom m s p q (u.setStack (srcOf m) ((u.stack (srcOf m)).setActive a)) := by
  obtain ⟨hsame, hmode, hthere, hptr, hlacks⟩ := h
  have hthere' : p ≤ a.toNat := by omega
  have hmode' : ((u.stack (srcOf m)).setActive a).keep.isSome = m.keep := by simp [hmode]
  cases hk : m.keep with
  | true =>
    have hptr' := ptr_setActive_of_keep (u.stack (srcOf m)) a (hmode.trans hk)
    rw [hk] at hlacks
    exact ⟨hsame.setStack _, by simpa using hmode', by simpa [active_setActive] using hthere', by simpa [hptr'],
      by simpa [hptr', hk] using hlacks⟩
  | false =>
    have hnone : (u.stack (srcOf m)).keep = none := by simpa using hmode.trans hk
    have hptr' := (setActive_no_keep_frame hnone a).1
    rw [active_of_no_keep hnone] at ha
    rw [hk] at hlacks
    refine ⟨hsame.setStack _, by simpa using hmode', by simpa [active_setActive] using hthere', ?_, ?_⟩
    · rw [stack_setStack_self, hptr']
      omega
    · rw [stack_setStack_self, hptr', hk]
      simp only [Bool.false_eq_true, if_false] at hlacks ⊢
      omega

theorem LacksRoom.pushed {m : Mode} {s u : State} {w : Width} (v : BitVec w.bits) {q : Nat}
    (h : LacksRoom m s 0 (w.bytes + q) u)
    (hroom : (u.stack (srcOf m)).ptr.toNat ≤ 254 → (u.stack (srcOf m)).ptr.toNat + w.bytes ≤ 254) :
    LacksRoom m s 0 q (u.setStack (srcOf m) ((u.stack (srcOf m)).put w v)) := by
  obtain ⟨hsame, hmode, -, hptr, hlacks⟩ := h
  have hptr' := ptr_put _ w v (hroom hptr)
  refine ⟨hsame.setStack _, by simpa using hmode, Nat.zero_le _, ?_, ?_⟩
  · rw [stack_setStack_self, hptr']
    exact hroom hptr
  · rw [stack_setStack_self, hptr']
    simp only [ite_self, Nat.sub_zero] at hlacks ⊢
    omega

theorem LacksRoom.outside {m : Mode} {s u : State} {p q : Nat} (h : LacksRoom m s p q u) (o : Outside) :
    LacksRoom m s p q { u with outside := o } := by
  have e (S : StackId) : State.stack { u with outside := o } S = u.stack S := stack_congr rfl rfl S
  obtain ⟨hsame, hmode, hthere, hptr, hlacks⟩ := h
  exact ⟨{ hsame with dst := (e _).trans hsame.dst }, by rwa [e], by rwa [e], by rwa [e], by rwa [e]⟩

theorem lacksRoom_selectKeep {m : Mode} {s : State} {p q : Nat} (hptr : (s.stack (srcOf m)).ptr.toNat ≤ 254)
    (hthere : p ≤ (s.stack (srcOf m)).ptr.toNat)
    (hlacks : 254 < (s.stack (srcOf m)).ptr.toNat - (if m.keep then 0 else p) + q) :
    LacksRoom m s p q (selectKeep m s) := by
  obtain ⟨st, e, hp⟩ := selectKeep_popping m s
  have ha : st.active.toNat = (s.stack (srcOf m)).ptr.toNat := by rw [← length_activeItems, hp.items, length_items]
  have hst : st.ptr = (s.stack (srcOf m)).ptr := by
    cases hk : m.keep with
    | true => exact hp.ptr hk
    | false => exact BitVec.eq_of_toNat_eq (active_of_no_keep (by simpa using hp.mode.trans hk) ▸ ha)
  rw [e]
  exact ⟨(OnlySource.refl m s).setStack _, by simpa using hp.mode, by simpa [ha], by simpa [hst], by simpa [hst]⟩

/-- The base operations that write more than their source stack and the host side, and DIV, which can fault on its
divisor. -/
def effectfulBases : List Base := [.jmp, .jcn, .jsr, .sth, .stz, .str, .sta, .deo, .div]

theorem opRules_lacksRoom {base : Base} (hb : base ∉ effectfulBases) (m : Mode) (s : State) :
    OpRules base m (LacksRoom m s) (OverflowsSource m s) :=
  have notIn {l : List Base} (hc : base ∈ l) (hl : l ⊆ effectfulBases) : False := hb (hl hc)
  have isNot {b : Base} (hc : base = b) (hl : b ∈ effectfulBases) : False := hb (hc ▸ hl)
  { underflow w p q u h hlt := absurd h.there (by omega)
    popped w p q u a h ha := h.popped ha
    overflow q u h := overflowsSource_raiseFault h.same h.ptr
    pushed w v q u h hroom := h.pushed v hroom
    finished u h := absurd h.ptr (by simpa using h.lacks)
    overflowDst hc := (notIn hc (by decide)).elim
    pushedDst hc := (notIn hc (by decide)).elim
    divided hc := (isNot hc (by decide)).elim
    jumped hc := (notIn hc (by decide)).elim
    stored hc := (notIn hc (by decide)).elim
    input _ port q u h := by
      obtain ⟨o, ho, -⟩ := devInW_snd port m.width u
      rw [ho]
      exact h.outside o
    refused hc := (isNot hc (by decide)).elim
    output hc := (isNot hc (by decide)).elim }

/-- DIV by a nonzero divisor, where its quotient does not fit: both operands are popped, and the push faults. -/
theorem divOp_overflowsSource {m : Mode} {s : State} {l : List Byte} {b a : BitVec m.width.bits} (ha : a ≠ 0)
    (hitems : (s.stack (srcOf m)).items = l ++ valueBytes _ b ++ valueBytes _ a)
    (hptr : (s.stack (srcOf m)).ptr.toNat ≤ 254)
    (hlacks : 254 < (s.stack (srcOf m)).ptr.toNat - (if m.keep then 0 else 2 * m.width.bytes) + m.width.bytes) :
    OverflowsSource m s (divOp m s) := by
  obtain ⟨st, e, hp⟩ := selectKeep_items hitems
  obtain ⟨st1, hp1, e1⟩ := hp.pop s _ a
  obtain ⟨st2, hp2, e2⟩ := hp1.pop s _ b
  have hlen := congrArg List.length hitems
  simp only [length_items, List.length_append, length_valueBytes] at hlen
  have hst : st2.ptr.toNat = (s.stack (srcOf m)).ptr.toNat - (if m.keep then 0 else 2 * m.width.bytes) := by
    rw [hp2.holdsOver.ptr]
    cases m.keep
    · simp only [Bool.false_eq_true, if_false]
      omega
    · simp
  have hst254 : st2.ptr.toNat ≤ 254 := by omega
  simp only [divOp, e, e1, e2, if_neg ha]
  rw [push_overflow _ _ _ _ (by simpa using hst254) (by simpa [hst] using hlacks)]
  exact overflowsSource_raiseFault ((OnlySource.refl m s).setStack st2) (by simpa using hst254)

theorem resultBytes_of_mem_effectful {base : Base} (w : Width) (h : base ∈ effectfulBases) :
    base = .div ∨ resultBytes w base = 0 := by
  simp only [effectfulBases, List.mem_cons, List.not_mem_nil, or_false] at h
  rcases h with rfl | rfl | rfl | rfl | rfl | rfl | rfl | rfl | rfl <;> simp [resultBytes]

/-- Settles O32: by the rule of the base operations, with DIV on its own because its divisor matters; an operation with
another effect pushes nothing, and so lacks no room. -/
theorem resultsWithoutRoomOverflow : Obligations.ResultsWithoutRoomOverflow := by
  intro base m s _ hptr hthere hdiv hlacks
  have key : OverflowsSource m s (baseOp base m s) := by
    by_cases hb : base ∈ effectfulBases
    · rcases resultBytes_of_mem_effectful m.width hb with rfl | hz
      · obtain ⟨l, b, a, ha, hitems⟩ := hdiv rfl
        exact divOp_overflowsSource (fun hc => ha (by simp [hc])) hitems hptr hlacks
      · omega
    · exact (opRules_lacksRoom hb m s).baseOp (lacksRoom_selectKeep hptr hthere hlacks)
  obtain ⟨t, e, hev, herr, hle, hs⟩ := key
  exact ⟨t, (exec_form base m s).trans e, hev, herr, hle, hs.dst, hs.pc, hs.mem, hs.port, hs.fd0, hs.fd1⟩

/-! ## Keep mode -/

/-- A keep pointer is set, and of the `n` bytes to push on top of `xs` all but `q` are there. -/
def Stack.Extends (xs : List Byte) (n q : Nat) (st : Stack) : Prop :=
  st.keep.isSome = true ∧ st.ptr.toNat ≤ 254 ∧ ∃ pushed, st.items = xs ++ pushed ∧ pushed.length + q = n

theorem Stack.Extends.setActive {xs : List Byte} {n q : Nat} {st : Stack} (h : st.Extends xs n q) (a : Byte) :
    (st.setActive a).Extends xs n q := by
  obtain ⟨k, hk⟩ := Option.isSome_iff_exists.1 h.1
  rw [setActive_of_keep_some hk]
  exact ⟨rfl, h.2⟩

theorem Stack.Extends.put {xs : List Byte} {n q : Nat} {st : Stack} {w : Width} (v : BitVec w.bits)
    (h : st.Extends xs n (w.bytes + q)) (hroom : st.ptr.toNat ≤ 254 → st.ptr.toNat + w.bytes ≤ 254) :
    (st.put w v).Extends xs n q := by
  obtain ⟨hk, hptr, pushed, hi, hn⟩ := h
  have hfit := hroom hptr
  refine ⟨by rwa [keep_put], by rwa [ptr_put _ _ _ hfit], pushed ++ valueBytes w v, ?_, ?_⟩
  · rw [(put_holdsOver st w v hfit).1, hi, List.append_assoc]
  · rw [List.length_append, length_valueBytes]
    omega

/-- An answer that is a next state without an Error has `n` bytes on top of `xs` on stack `S`. -/
def AnswersOnTop (S : StackId) (xs : List Byte) (n : Nat) (r : Result) : Prop :=
  ∀ t, r = .next t → NotErrored t → ∃ pushed, (t.stack S).items = xs ++ pushed ∧ pushed.length = n

theorem answersOnTop_raiseFault {S T : StackId} {xs : List Byte} {n : Nat} {kind : FaultKind} {u : State} :
    AnswersOnTop S xs n (.next (raiseFault kind T u)) := by
  intro t ht hn
  cases ht
  exact absurd rfl (hn kind)

theorem answersOnTop_next {S : StackId} {xs : List Byte} {n : Nat} {u t : State} (h : (u.stack S).Extends xs n 0)
    (ht : (t.stack S).items = (u.stack S).items) : AnswersOnTop S xs n (.next t) := by
  obtain ⟨-, -, pushed, hi, hn⟩ := h
  intro t' e _
  cases e
  exact ⟨pushed, ht.trans hi, hn⟩

theorem items_closeKeep (u : State) (S : StackId) : ((closeKeep u).stack S).items = (u.stack S).items := by
  rw [stack_closeKeep, items_with_keep]

theorem opRules_extends (base : Base) (m : Mode) (xs : List Byte) (n : Nat) :
    OpRules base m (fun _ q u => (u.stack (srcOf m)).Extends xs n q) (AnswersOnTop (srcOf m) xs n) where
  underflow _ _ _ _ _ _ := answersOnTop_raiseFault
  popped _ _ _ _ a h _ := by simpa using h.setActive a
  overflow _ _ _ := answersOnTop_raiseFault
  pushed _ v _ _ h hroom := by simpa using h.put v hroom
  finished u h := answersOnTop_next h (items_closeKeep u _)
  overflowDst _ _ _ _ _ := answersOnTop_raiseFault
  pushedDst _ _ _ _ _ _ h _ := by simpa using h
  divided _ _ _ _ := answersOnTop_raiseFault
  jumped _ _ _ h := by rwa [stack_congr rfl rfl]
  stored _ _ _ _ h := by rwa [stack_congr rfl rfl]
  input _ port _ u h := by
    obtain ⟨o, ho, -⟩ := devInW_snd port m.width u
    rwa [ho, stack_congr rfl rfl]
  refused _ _ := fun t ht => by cases ht
  output _ _ halt u t h hf _ := by
    rw [← stack_congr hf.wst hf.rst] at h
    cases halt with
    | none => exact answersOnTop_next h (items_closeKeep t _)
    | some c => exact answersOnTop_next h ((congrArg Stack.items (stack_congr rfl rfl _)).trans (items_closeKeep t _))

theorem extends_selectKeep {m : Mode} (hm : m.keep = true) {s : State} (hptr : (s.stack (srcOf m)).ptr.toNat ≤ 254)
    (n : Nat) : ((selectKeep m s).stack (srcOf m)).Extends (s.stack (srcOf m)).items n n := by
  rw [selectKeep, if_pos hm, keepOn, stack_setStack_self]
  exact ⟨rfl, hptr, [], by simp, by simp⟩

/-- Settles O33: in keep mode a pop moves only the keep pointer, so each push lies on top of all that was there. -/
theorem keepModeLeavesSourceInPlace : Obligations.KeepModeLeavesSourceInPlace := by
  intro base m s t hm hptr _ e hn
  rw [exec_form] at e
  exact (opRules_extends base m _ _).baseOp (extends_selectKeep hm hptr _) t e hn

/-! ## The parameters, the datetime source and Halt -/

/-- In the middle of an instruction: the run goes on, and the parameters and the datetime source are those of `s`. -/
structure SameParams (s : State) (_ _ : Nat) (u : State) : Prop where
  event      : u.event = none
  params     : u.params = s.params
  timeSource : u.timeSource = s.timeSource

/-- A next state has the parameters and the datetime source of `s`, and it has halted only where the base operation is
DEO, with the nonzero byte of port 0x0F. -/
def HaltsByDeo (base : Option Base) (s : State) (r : Result) : Prop :=
  ∀ t, r = .next t → t.params = s.params ∧ t.timeSource = s.timeSource ∧
    ∀ code, t.event = some (.halt code) → base = some .deo ∧ t.port.get 0x0F = code ∧ code ≠ 0

theorem haltsByDeo_of_no_halt {base : Option Base} {s t : State} (hp : t.params = s.params)
    (ht : t.timeSource = s.timeSource) (he : ∀ code, t.event ≠ some (.halt code)) :
    HaltsByDeo base s (.next t) := by
  intro t' e
  cases e
  exact ⟨hp, ht, fun code hc => absurd hc (he code)⟩

theorem SameParams.raiseFault {s u : State} {p q : Nat} (h : SameParams s p q u) {base : Option Base}
    {kind : FaultKind} {S : StackId} : HaltsByDeo base s (.next (raiseFault kind S u)) :=
  haltsByDeo_of_no_halt (by simpa using h.params) (by simpa using h.timeSource) (by simp [Machine.raiseFault])

theorem SameParams.closeKeep {s u : State} {p q : Nat} (h : SameParams s p q u) (base : Option Base) :
    HaltsByDeo base s (.next (closeKeep u)) :=
  haltsByDeo_of_no_halt h.params h.timeSource (by simp [h.event])

theorem SameParams.setStack {s u : State} {p q p' q' : Nat} (h : SameParams s p q u) (S : StackId) (st : Stack) :
    SameParams s p' q' (u.setStack S st) :=
  ⟨by simpa using h.event, by simpa using h.params, by simpa using h.timeSource⟩

theorem stackRules_sameParams (base : Option Base) (m : Mode) (s : State) :
    StackRules m (SameParams s) (HaltsByDeo base s) where
  underflow _ _ _ _ h _ := h.raiseFault
  popped _ _ _ _ _ h _ := h.setStack ..
  overflow _ _ h := h.raiseFault
  pushed _ _ _ _ h _ := h.setStack ..
  finished _ h := h.closeKeep _

theorem opRules_sameParams (base : Base) (m : Mode) (s : State) :
    OpRules base m (SameParams s) (HaltsByDeo (some base) s) where
  toStackRules := stackRules_sameParams ..
  overflowDst _ _ _ _ h := h.raiseFault
  pushedDst _ _ _ _ _ _ h _ := h.setStack ..
  divided _ _ _ h := h.raiseFault
  jumped _ _ _ h := { h with }
  stored _ _ _ _ h := { h with }
  input _ port _ u h := by
    obtain ⟨o, ho, -⟩ := devInW_snd port m.width u
    rw [ho]
    exact { h with }
  refused _ _ := fun t ht => by cases ht
  output hb _ halt u t h hf hh := by
    have ht : SameParams s 0 0 t :=
      ⟨hf.event.trans h.event, hf.params.trans h.params, hf.timeSource.trans h.timeSource⟩
    cases halt with
    | none => exact ht.closeKeep _
    | some c =>
      intro t' e
      cases e
      refine ⟨ht.params, ht.timeSource, fun code hc => ?_⟩
      obtain rfl : c = code := by simpa using hc
      exact ⟨congrArg some hb, (hh c rfl).2, (hh c rfl).1⟩

theorem exec_haltsByDeo (i : Instr) {s : State} (he : s.event = none) : HaltsByDeo i.base s (exec i s) :=
  exec_of_rules (haltsByDeo_of_no_halt rfl rfl (by simp)) (fun m => stackRules_sameParams i.base m s)
    (fun base m hb => hb ▸ opRules_sameParams base m s) (fun m _ _ => ⟨by simpa using he, by simp, by simp⟩)
    fun _ _ _ hu => { hu with }

/-- No step changes a parameter or the datetime source: no instruction does, and no resumption. -/
theorem step_params_timeSource {s t : State} (h : step s = .next t) :
    t.params = s.params ∧ t.timeSource = s.timeSource := by
  rcases step_next_cases h with ⟨he, htick⟩ | ⟨-, hresume⟩
  · rcases tick_cases s with ⟨-, e⟩ | ⟨-, e⟩
    · obtain ⟨hp, ht, -⟩ := exec_haltsByDeo .brk he t (e.symm.trans htick)
      exact ⟨hp, ht⟩
    · obtain ⟨hp, ht, -⟩ :=
        exec_haltsByDeo (fetchInstr s) (s := { s with pc := s.pc + 1 }) he t (e.symm.trans htick)
      exact ⟨hp, ht⟩
  · rcases resume_cases s with e | e | ⟨key, o, -, -, e⟩ <;> rw [e] at hresume <;> cases hresume
    exact ⟨rfl, rfl⟩

/-- Settles O36: by the rule of every instruction, where only the output of DEO gives a halt code. -/
theorem parametersNeverChangeAndOnlyDeoHalts : Obligations.ParametersNeverChangeAndOnlyDeoHalts :=
  ⟨fun _ _ h => step_params_timeSource h, fun i _ t code he h hc => (exec_haltsByDeo i he t h).2.2 code hc⟩

end Sys2Proof.Machine
end

section
/-!
PROOFS. Memory: a short written is read back with its high byte first, a path ends at the first zero byte or is refused,
and each kind of state is written only by the instructions named for it.
-/

namespace Sys2Proof.Machine

/-! ## Shorts in memory -/

/-- Settles O60: by what a read finds after a short is written, at its two addresses and elsewhere. -/
theorem memoryIsBigEndianAndWraps : Obligations.MemoryIsBigEndianAndWraps := by
  intro m a v x hm
  refine ⟨Memory.read16_write16 hm a v, ?_, ?_, fun hx hx1 => ?_, ?_⟩
  · rw [Memory.read_write16 hm, if_pos rfl, hiByte_toNat]
  · rw [Memory.read_write16 hm, if_neg (word_ne_succ a).symm, if_pos rfl, loByte_toNat]
  · rw [Memory.read_write16 hm, if_neg hx, if_neg hx1]
  · rw [Memory.read_write16 hm, if_neg (by decide), if_pos (by decide)]

/-! ## Strings in memory -/

/-- A string that meets no zero byte within its bound is none (R86). -/
theorem Memory.stringWithin_eq_none {m : Memory} {fuel : Nat} {a : Word}
    (h : ∀ k < fuel, m.read (a + BitVec.ofNat 16 k) ≠ 0) : m.stringWithin fuel a = none := by
  induction fuel generalizing a with
  | zero => rfl
  | succ fuel ih =>
    have hfirst : m.read a ≠ 0 := by simpa using h 0 (Nat.succ_pos _)
    have hrest : m.stringWithin fuel (a + 1) = none := ih fun k hk => by
      rw [word_add_succ]
      exact h (k + 1) (Nat.succ_lt_succ hk)
    rw [Memory.stringWithin, if_neg hfirst, hrest, Option.map_none]

/-- A string whose first zero byte is within its bound is the bytes before it (R86). -/
theorem Memory.stringWithin_eq_some {m : Memory} {fuel n : Nat} {a : Word} (hn : n < fuel)
    (hzero : m.read (a + BitVec.ofNat 16 n) = 0) (h : ∀ k < n, m.read (a + BitVec.ofNat 16 k) ≠ 0) :
    m.stringWithin fuel a = some (m.readBytes a n) := by
  induction n generalizing fuel a with
  | zero =>
    obtain ⟨fuel, rfl⟩ := Nat.exists_eq_add_one.2 hn
    rw [Memory.stringWithin, if_pos (by simpa using hzero), Memory.readBytes]
  | succ n ih =>
    obtain ⟨fuel, rfl⟩ := Nat.exists_eq_add_one.2 (Nat.zero_lt_of_lt hn)
    have hfirst : m.read a ≠ 0 := by simpa using h 0 (Nat.succ_pos _)
    have hrest : m.stringWithin fuel (a + 1) = some (m.readBytes (a + 1) n) :=
      ih (Nat.lt_of_succ_lt_succ hn) (by rwa [word_add_succ]) fun k hk => by
        rw [word_add_succ]
        exact h (k + 1) (Nat.succ_lt_succ hk)
    rw [Memory.stringWithin, if_neg hfirst, hrest, Option.map_some, Memory.readBytes]

/-- Memory with no zero byte from an address up to 0xFFFF holds no string there (R86, D28). -/
theorem Memory.string_eq_none {m : Memory} {a : Word} (h : ∀ x : Word, a.toNat ≤ x.toNat → m.read x ≠ 0) :
    m.string a = none := by
  refine Memory.stringWithin_eq_none fun k hk => h _ ?_
  rw [BitVec.toNat_add, BitVec.toNat_ofNat]
  omega

/-! ## The path of a trigger -/

theorem withPath_of_none {i : FileId} {s : State} (h : filePath i s = none) (act : Bytes → State) :
    withPath i s act = .error .unterminatedPath := by
  simp only [withPath, h]

theorem withPath_of_some {i : FileId} {s : State} {path : Bytes} (h : filePath i s = some path)
    (act : Bytes → State) : withPath i s act = .ok (act path) := by
  simp only [withPath, h]

theorem crossTrigger_ne_unterminatedPath (i : FileId) (s : State) :
    crossTrigger i s ≠ .error .unterminatedPath := by
  unfold crossTrigger
  split <;> simp

/-- A trigger whose path is terminated is not refused for it: the triggers that read the path run on it, and a crossed
trigger is refused, if at all, under its own name (R435, R444). -/
theorem fileTrigger_ne_unterminatedPath {i : FileId} {s : State} {path : Bytes} (h : filePath i s = some path)
    (index : BitVec 4) : fileTrigger i index s ≠ .error .unterminatedPath := by
  have onPath (act : Bytes → State) : withPath i s act ≠ .error .unterminatedPath := by
    simp [withPath_of_some h]
  have crossed := crossTrigger_ne_unterminatedPath i s
  unfold fileTrigger
  split
  · exact onPath _
  · exact onPath _
  · simp
  · unfold fileRead
    split
    · exact onPath _
    · simp
    · simp
    · exact crossed
  · unfold fileWrite
    split
    · exact onPath _
    · simp
    · exact crossed
    · exact crossed
  · simp

/-- Stat and Delete read the path in every state of the device, Read and Write from Idle (R437, R438, R440, R445). -/
theorem fileTrigger_of_unterminatedPath {i : FileId} {s : State} (h : filePath i s = none) :
    fileTrigger i 0x4 s = .error .unterminatedPath ∧ fileTrigger i 0x6 s = .error .unterminatedPath ∧
    (s.fd i = .idle → fileTrigger i 0xC s = .error .unterminatedPath ∧
      fileTrigger i 0xE s = .error .unterminatedPath) := by
  refine ⟨withPath_of_none h _, withPath_of_none h _, fun hidle => ⟨?_, ?_⟩⟩
  · show fileRead i s = _
    rw [fileRead, hidle]
    exact withPath_of_none h _
  · show fileWrite i s = _
    rw [fileWrite, hidle]
    exact withPath_of_none h _

/-- Settles O46: by the string that memory holds at the path pointer. -/
theorem unterminatedPathIsRefused : Obligations.UnterminatedPathIsRefused := by
  intro i s
  refine ⟨fun h => ?_, fun n hn hzero h => ?_⟩
  · have hpath : filePath i s = none := Memory.string_eq_none h
    exact ⟨hpath, fileTrigger_of_unterminatedPath hpath⟩
  · have hpath : filePath i s = some (s.mem.readBytes (filePathPtr i s) n) :=
      Memory.stringWithin_eq_some (by omega) hzero h
    exact ⟨hpath, fileTrigger_ne_unterminatedPath hpath⟩

/-! ## The writers of each kind of state -/

/-- Of `s`, only what an instruction of base operation `b` may write has changed in `u`, the stacks and the event
aside (R94, R161, R310, R311). -/
structure WrittenBy (b : Option Base) (s u : State) : Prop where
  mem     : b ∉ [some Base.stz, some .str, some .sta, some .deo] → u.mem = s.mem
  port    : b ≠ some .deo → u.port = s.port
  fd0     : b ≠ some .deo → u.fd0 = s.fd0
  fd1     : b ≠ some .deo → u.fd1 = s.fd1
  outside : b ∉ [some Base.dei, some .deo] → u.outside = s.outside
  pc      : b ∉ [some Base.jmp, some .jcn, some .jsr] → u.pc = s.pc

/-- An answer that is a next state has written only what base operation `b` may. -/
def WritesAs (b : Option Base) (s : State) (r : Result) : Prop := ∀ t, r = .next t → WrittenBy b s t

theorem writesAs_next {b : Option Base} {s t : State} (h : WrittenBy b s t) : WritesAs b s (.next t) :=
  fun _ e => Host.Outcome.next.inj e ▸ h

theorem WrittenBy.refl (b : Option Base) (s : State) : WrittenBy b s s :=
  ⟨fun _ => rfl, fun _ => rfl, fun _ => rfl, fun _ => rfl, fun _ => rfl, fun _ => rfl⟩

theorem WrittenBy.setStack {b : Option Base} {s u : State} (h : WrittenBy b s u) (S : StackId) (st : Stack) :
    WrittenBy b s (u.setStack S st) := by
  cases S <;> exact { h with }

theorem WrittenBy.writesAs_raiseFault {b : Option Base} {s u : State} (h : WrittenBy b s u) (kind : FaultKind)
    (S : StackId) : WritesAs b s (.next (raiseFault kind S u)) :=
  writesAs_next { h.setStack S _ with }

theorem WrittenBy.selectKeep {b : Option Base} {s u : State} (h : WrittenBy b s u) (m : Mode) :
    WrittenBy b s (selectKeep m u) := by
  unfold Machine.selectKeep
  split <;> exact h.setStack _ _

theorem stackRules_writtenBy (b : Option Base) (m : Mode) (s : State) :
    StackRules m (fun _ _ => WrittenBy b s) (WritesAs b s) where
  underflow _ _ _ _ h _ := h.writesAs_raiseFault _ _
  popped _ _ _ _ _ h _ := h.setStack _ _
  overflow _ _ h := h.writesAs_raiseFault _ _
  pushed _ _ _ _ h _ := h.setStack _ _
  finished _ h := writesAs_next { h with }

theorem opRules_writtenBy (base : Base) (m : Mode) (s : State) :
    OpRules base m (fun _ _ => WrittenBy (some base) s) (WritesAs (some base) s) where
  toStackRules := stackRules_writtenBy _ m s
  overflowDst _ _ _ _ h := h.writesAs_raiseFault _ _
  pushedDst _ _ _ _ _ _ h _ := h.setStack _ _
  divided _ _ _ h := h.writesAs_raiseFault _ _
  jumped hb _ _ h := { h with pc := fun hn => absurd (List.mem_map_of_mem (f := some) hb) hn }
  stored hb _ _ _ h :=
    { h with mem := fun hn => absurd (List.mem_append_left [some Base.deo] (List.mem_map_of_mem (f := some) hb)) hn }
  input hb port _ u h := by
    subst hb
    obtain ⟨o, ho, -⟩ := devInW_snd port m.width u
    rw [ho]
    exact { h with outside := fun hn => absurd (by decide) hn }
  refused _ _ := fun t ht => by cases ht
  output hb _ halt u t h hf _ := by
    subst hb
    have ht : WrittenBy (some .deo) s t :=
      ⟨fun hn => absurd (by decide) hn, fun hn => absurd rfl hn, fun hn => absurd rfl hn, fun hn => absurd rfl hn,
        fun hn => absurd (by decide) hn, fun hn => hf.pc.trans (h.pc hn)⟩
    cases halt with
    | none => exact writesAs_next { ht with }
    | some c => exact writesAs_next { ht with }

/-- Every instruction writes only what its base operation may, a LIT after pc has moved past its immediate (R202). -/
theorem exec_writesAs (i : Instr) (s : State) :
    ∃ pc, (i.immediate = [] → pc = s.pc) ∧ WritesAs i.base { s with pc := pc } (exec i s) := by
  have nop (b : Option Base) (m : Mode) : WritesAs b s (nopOp m s) :=
    (stackRules_writtenBy b m s).nopOp ((WrittenBy.refl b s).selectKeep m)
  have lit (b : Option Base) (m : Mode) (imm : BitVec m.width.bits) :
      WritesAs b { s with pc := s.pc + BitVec.ofNat 16 m.width.bytes } (litOp m imm s) :=
    (stackRules_writtenBy b m _).litOp imm { (WrittenBy.refl b s).selectKeep m with pc := fun _ => rfl }
  rcases i.special_or_form with hi | ⟨base, m, rfl⟩
  · cases hi with
    | brk => exact ⟨s.pc, fun _ => rfl, writesAs_next { WrittenBy.refl _ s with }⟩
    | nop20 | nop40 | nop60 => exact ⟨s.pc, fun _ => rfl, nop _ _⟩
    | lit b => exact ⟨_, nofun, lit _ ⟨true, false, false⟩ b⟩
    | lit2 v => exact ⟨_, nofun, lit _ ⟨true, false, true⟩ v⟩
    | litr b => exact ⟨_, nofun, lit _ ⟨true, true, false⟩ b⟩
    | lit2r v => exact ⟨_, nofun, lit _ ⟨true, true, true⟩ v⟩
  · refine ⟨s.pc, fun _ => rfl, ?_⟩
    rw [exec_form, Instr.base_form]
    exact (opRules_writtenBy base m s).baseOp ((WrittenBy.refl _ s).selectKeep m)

/-- Settles O35: by the rule of every instruction, where only the named operations lead out of the frame. -/
theorem eachKindOfStateHasItsWriters : Obligations.EachKindOfStateHasItsWriters := by
  intro i s t e
  obtain ⟨pc, hpc, h⟩ := exec_writesAs i s
  obtain ⟨hmem, hport, hfd0, hfd1, houtside, hpc'⟩ := h t e
  exact ⟨hmem, fun hb => ⟨hport hb, hfd0 hb, hfd1 hb⟩, houtside, fun hb himm => (hpc' hb).trans (hpc himm)⟩

end Sys2Proof.Machine
end

section
/-!
PROOFS. The encoding: an opcode byte is its base field and its three mode bits, so the decoder, which splits the byte,
and the encoder, which writes it from the opcode map, undo each other; and the reserved no-ops.
-/

namespace Sys2Proof

/-! ## The opcode byte -/

/-- The byte of a 5-bit base field and three mode bits (R121, R129). -/
def opcodeByte (field : BitVec 5) (m : Mode) : Byte :=
  field.setWidth 8 ||| (if m.short then 0x20 else 0) ||| (if m.ret then 0x40 else 0) ||| (if m.keep then 0x80 else 0)

/-- The field and the mode bits of an opcode byte are all of its bits (R121). -/
theorem opcodeByte_field_modeOf (op : Byte) : opcodeByte (op.extractLsb' 0 5) (modeOf op) = op := by
  revert op
  decide

/-- A field that names a base operation is the one in the opcode bytes of all its forms (R129). -/
theorem Instr.opcode_form {field : BitVec 5} {base : Base} (h : Base.ofBits field = some base) (m : Mode) :
    (Instr.form base m).opcode = opcodeByte field m := by
  have hfield : ∀ field, ∀ base ∈ Base.ofBits field,
      (Instr.form base ⟨false, false, false⟩).opcode.extractLsb' 0 5 = field := by decide
  rw [← hfield field base h]
  obtain ⟨_ | _, _ | _, _ | _⟩ := m <;> cases base <;> rfl

theorem Instr.modeOf_opcode_form (base : Base) (m : Mode) : modeOf (Instr.form base m).opcode = m := by
  obtain ⟨_ | _, _ | _, _ | _⟩ := m <;> cases base <;> rfl

/-- Base field 0x00 is the only one that names no base operation (R125 to R127, R129). -/
theorem Base.field_eq_zero_of_ofBits_none {field : BitVec 5} (h : Base.ofBits field = none) : field = 0 := by
  revert field
  decide

/-- Settles O3: by the field that names each base operation, and by the opcode map for base 0x00. -/
theorem opcodeByteIsBaseAndModeBits : Obligations.OpcodeByteIsBaseAndModeBits := by
  refine ⟨fun n base m h => ?_, fun _ _ => ⟨rfl, rfl, rfl, rfl, rfl, rfl, rfl, rfl⟩, rfl, rfl, rfl⟩
  have hnamed : n < 31 ∧ Base.ofBits (BitVec.ofNat 5 (n + 1)) = some base := by
    obtain ⟨hn, rfl⟩ := List.getElem?_eq_some_iff.1 h
    refine ⟨hn, ?_⟩
    clear h
    revert n
    decide
  have hnumber : (BitVec.ofNat 5 (n + 1)).setWidth 8 = BitVec.ofNat 8 (n + 1) :=
    BitVec.setWidth_ofNat_of_le_of_lt (by decide) (by omega)
  rw [Instr.opcode_form hnamed.2, opcodeByte, hnumber]

/-! ## Decoding what was encoded -/

/-- The length of an instruction counts its opcode byte and its immediate (R128). -/
theorem Instr.length_eq (i : Instr) : i.length = i.immediate.length + 1 := by
  rcases i.special_or_form with hi | ⟨base, m, rfl⟩
  · cases hi <;> rfl
  · rw [Instr.length_form, Instr.immediate_form, List.length_nil]

theorem Instr.length_le_three (i : Instr) : i.length ≤ 3 := by
  rcases i.special_or_form with hi | ⟨base, m, rfl⟩
  · cases hi <;> simp [Instr.length]
  · simp [Instr.length_form]

theorem decodeOp_opcode_form (base : Base) (m : Mode) (b1 b2 : Byte) :
    decodeOp (Instr.form base m).opcode b1 b2 = .form base m := by
  have hbase : Base.ofBits ((Instr.form base m).opcode.extractLsb' 0 5) = some base := Instr.base_form base m
  simp only [decodeOp, hbase, Instr.modeOf_opcode_form]

/-- The decoder finds an instruction in its opcode byte and the two bytes after it, whatever follows its immediate
(R126, R134). -/
theorem decodeOp_opcode (i : Instr) (rest : List Byte) :
    decodeOp i.opcode ((i.immediate ++ rest).getD 0 0) ((i.immediate ++ rest).getD 1 0) = i := by
  rcases i.special_or_form with hi | ⟨base, m, rfl⟩
  · cases hi with
    | brk | nop20 | nop40 | nop60 => rfl
    | lit b => exact show decodeOp 0x80 b _ = .lit b from rfl
    | litr b => exact show decodeOp 0xC0 b _ = .litr b from rfl
    | lit2 v => exact show decodeOp 0xA0 (hiByte v) (loByte v) = .lit2 v from congrArg _ (Machine.joinBytes_hi_lo v)
    | lit2r v => exact show decodeOp 0xE0 (hiByte v) (loByte v) = .lit2r v from congrArg _ (Machine.joinBytes_hi_lo v)
  · exact decodeOp_opcode_form base m _ _

/-- Settles O1: the decoder finds the instruction in its own bytes, and drops as many as it has. -/
theorem decodeOfEncodeIsInstruction : Obligations.DecodeOfEncodeIsInstruction := by
  intro i rest _
  simp only [encode, List.cons_append, decode, decodeOp_opcode, Instr.length_eq]
  simp

/-! ## Encoding what was decoded -/

/-- The instruction of an opcode byte has that opcode byte (R131, R134). -/
theorem opcode_decodeOp (op b1 b2 : Byte) : (decodeOp op b1 b2).opcode = op := by
  conv_rhs => rw [← opcodeByte_field_modeOf op]
  unfold decodeOp
  split
  · next base h => exact Instr.opcode_form h _
  · next h =>
    rw [Base.field_eq_zero_of_ofBits_none h]
    split <;> next hm => rw [hm]; rfl

/-- The immediate of what is decoded is the bytes after the opcode byte, as many as the length tells (R126, R128). -/
theorem immediate_decodeOp (op b1 b2 : Byte) :
    (decodeOp op b1 b2).immediate = [b1, b2].take ((decodeOp op b1 b2).length - 1) := by
  unfold decodeOp
  split
  · rw [Instr.immediate_form, Instr.length_form, List.take_zero]
  · split <;> simp [Instr.immediate, Instr.length]

/-- All that decoding a list of bytes can find: the instruction of its first three bytes, where they hold its whole
immediate (R120, R128). -/
theorem decode_ok_inversion {bytes rest : List Byte} {i : Instr} (h : decode bytes = .ok (i, rest)) :
    ∃ op tail, bytes = op :: tail ∧ i = decodeOp op (tail.getD 0 0) (tail.getD 1 0) ∧
      i.length ≤ tail.length + 1 ∧ rest = tail.drop (i.length - 1) := by
  cases bytes with
  | nil => cases h
  | cons op tail =>
    rw [decode] at h
    split at h
    · cases h
    · next hlen =>
      cases h
      exact ⟨op, tail, rfl, rfl, Nat.not_lt.1 hlen, rfl⟩

/-- Two bytes read with a default are those of the list, as far as the list reaches. -/
theorem take_getD_getD {tail : List Byte} {n : Nat} (h2 : n ≤ 2) (h : n ≤ tail.length) :
    [tail.getD 0 0, tail.getD 1 0].take n = tail.take n := by
  interval_cases n
  · rfl
  · match tail, h with
    | _ :: _, _ => rfl
  · match tail, h with
    | _ :: _ :: _, _ => rfl

/-- Settles O2: the first byte is the opcode byte of what it decodes to, and the bytes the decoder drops are its
immediate. -/
theorem decodedBytesAreEncoding : Obligations.DecodedBytesAreEncoding := by
  intro bytes rest i h
  obtain ⟨op, tail, rfl, hi, hlen, rfl⟩ := decode_ok_inversion h
  have hop : i.opcode = op := hi ▸ opcode_decodeOp _ _ _
  have himm : i.immediate = [tail.getD 0 0, tail.getD 1 0].take (i.length - 1) := hi ▸ immediate_decodeOp _ _ _
  have h3 : i.length ≤ 3 := i.length_le_three
  rw [encode, hop, himm, take_getD_getD (by omega) (by omega), List.cons_append, List.take_append_drop]

/-- Settles O4: the decoder computes each of them. -/
theorem sampleWordsDecode : Obligations.SampleWordsDecode := ⟨rfl, rfl, rfl, rfl, rfl, rfl, rfl, rfl⟩

/-! ## The reserved no-ops -/

namespace Machine

theorem closeKeep_selectKeep {m : Mode} (hm : m.keep = false) (s : State) :
    closeKeep (selectKeep m s) = closeKeep s := by
  rw [selectKeep, hm]
  cases srcOf m <;> rfl

/-- A no-op outside keep mode only ends its instruction (R201). -/
theorem nopOp_eq {m : Mode} (hm : m.keep = false) (s : State) : nopOp m s = .next (closeKeep s) := by
  rw [nopOp, finish, closeKeep_selectKeep hm]

/-- While the run goes on, a step that finds a byte other than 0x00 at pc runs the instruction of that byte (R161). -/
theorem step_of_opcode {s : State} {op : Byte} (he : s.event = none) (hop : s.mem.read s.pc = op) (h0 : op ≠ 0x00) :
    step s = exec (decodeOp op (s.mem.read (s.pc + 1)) (s.mem.read (s.pc + 2))) { s with pc := s.pc + 1 } := by
  subst hop
  rcases tick_cases s with ⟨hbrk, -⟩ | ⟨-, htick⟩
  · exact absurd hbrk h0
  · exact (step_of_running he).trans htick

/-- Settles O12: each of the three bytes decodes to its no-op, which only ends its instruction. -/
theorem reservedNoOpsOnlyAdvancePc : Obligations.ReservedNoOpsOnlyAdvancePc := by
  refine ⟨fun s => ⟨nopOp_eq rfl s, nopOp_eq rfl s, nopOp_eq rfl s⟩, fun s he hop => ?_⟩
  simp only [List.mem_cons, List.not_mem_nil, or_false] at hop
  rcases hop with hop | hop | hop <;>
    exact (step_of_opcode he hop (by decide)).trans (nopOp_eq rfl _)

end Machine

end Sys2Proof
end

section
/-!
PROOFS. The dispatch of an instruction: a step of a running machine runs what its bytes at pc decode to, a run that has
ended goes on only at the console vector with a key, and a base operation without its operands underflows.
-/

namespace Sys2Proof.Machine

/-! ## The bytes at pc -/

/-- Decoding the bytes at pc finds the instruction that the tick fetches (R134, R161). -/
theorem eq_fetchInstr_of_decode {s : State} {i : Instr} {rest : List Byte}
    (h : decode (fetchBytes s) = .ok (i, rest)) : i = fetchInstr s := by
  obtain ⟨op, tail, hbytes, hi, -⟩ := decode_ok_inversion h
  cases hbytes
  exact hi

/-- The tick fetches BRK exactly where the byte at pc is 0x00 (R125, R172). -/
theorem fetchInstr_eq_brk_iff (s : State) : fetchInstr s = .brk ↔ s.mem.read s.pc = 0x00 := by
  constructor
  · intro h
    rw [← opcode_decodeOp (s.mem.read s.pc) (s.mem.read (s.pc + 1)) (s.mem.read (s.pc + 2))]
    exact congrArg Instr.opcode h
  · intro h
    rw [fetchInstr, h]
    rfl

/-- Settles O55: the decoded instruction is the fetched one, and the tick tells BRK by its byte. -/
theorem stepRunsDecodedInstruction : Obligations.StepRunsDecodedInstruction := by
  intro s i rest he hdecode _
  obtain rfl := eq_fetchInstr_of_decode hdecode
  rw [step_of_running he]
  rcases tick_cases s with ⟨hop, e⟩ | ⟨hop, e⟩
  · rw [e, if_pos ((fetchInstr_eq_brk_iff s).2 hop)]
  · rw [e, if_neg (mt (fetchInstr_eq_brk_iff s).1 hop)]

/-! ## After a Break -/

/-- With a console vector and a key, a resumption goes on at the vector with the key in port 0x12 (R502, R506, D15). -/
theorem resume_of_key {s : State} {key : Byte} (hv : consoleVector s ≠ 0) (hk : (hostKey s).1 = some key) :
    resume s = .next { (hostKey s).2 with port := s.port.set 0x12 key, pc := consoleVector s, event := none } := by
  have hkey : hostKey s = (some key, (hostKey s).2) := Prod.ext hk rfl
  rw [resume, if_neg hv, hkey]
  rfl

/-- At the end of the key input the run is over (D14). -/
theorem resume_of_no_key {s : State} (hv : consoleVector s ≠ 0) (hk : (hostKey s).1 = none) :
    resume s = .fault .keyInputEnded := by
  have hkey : hostKey s = (none, (hostKey s).2) := Prod.ext hk rfl
  rw [resume, if_neg hv, hkey]

/-- The oldest key the host has ready is its answer (R505). -/
theorem hostKey_of_ready {s : State} {key : Option Byte} {later : List (Option Byte)}
    (h : s.outside.keys = key :: later) : (hostKey s).1 = key := by
  rw [hostKey, h]
  rfl

/-- Settles O59: by the event of the state, and after a Break by the vector and the host's answer. -/
theorem onlyBreakWithVectorAndKeyResumes : Obligations.OnlyBreakWithVectorAndKeyResumes := by
  refine ⟨fun s key he hv hk => (step_of_brk he).trans (resume_of_key hv hk), fun s => ⟨?_, ?_, ?_, ?_, ?_⟩⟩
  · exact fun _ _ h => hostKey_of_ready h
  · exact fun _ he => step_of_halt he
  · exact fun _ he => step_of_error he
  · exact fun he hv => (step_of_brk he).trans (if_pos hv)
  · exact fun he hv hk => (step_of_brk he).trans (resume_of_no_key hv hk)

/-! ## Missing operands -/

/-- Lowering the active pointer does not raise the real pointer (R46, R47). -/
theorem ptr_setActive_le (st : Stack) {a : Byte} (h : a ≤ st.active) : (st.setActive a).ptr ≤ st.ptr := by
  cases hk : st.keep with
  | some k =>
    rw [setActive_of_keep_some hk]
    exact BitVec.le_refl _
  | none =>
    rw [(setActive_no_keep_frame hk a).1, ← active_of_no_keep hk]
    exact h

/-- In the middle of an instruction's pops, `u` has fewer bytes to pop than the `p` that the instruction still needs. Of
`s`, only the source stack has changed, and of that stack only the pointers, the real one not raised. -/
structure LacksOperands (m : Mode) (s : State) (p _q : Nat) (u : State) : Prop where
  same  : ∀ st, u.setStack (srcOf m) st = s.setStack (srcOf m) st
  lacks : (u.stack (srcOf m)).active.toNat < p
  ptr   : (u.stack (srcOf m)).ptr ≤ (s.stack (srcOf m)).ptr
  page  : ∀ k : Byte, k ≠ 255 → (u.stack (srcOf m)).page.get k = (s.stack (srcOf m)).page.get k

/-- The answer is Error(Underflow) on the source stack, and of `s` only that stack and the event have changed, of the
stack only the pointers and the error byte. -/
def UnderflowsSource (m : Mode) (s : State) (r : Result) : Prop :=
  ∃ st : Stack, r = .next { s.setStack (srcOf m) st with event := some (.error .underflow) } ∧
    st.err = 0x01 ∧ st.ptr ≤ (s.stack (srcOf m)).ptr ∧
    ∀ k : Byte, k ≠ 254 → k ≠ 255 → st.page.get k = (s.stack (srcOf m)).page.get k

section LacksOperands

variable {m : Mode} {s u : State} {p q : Nat}

theorem LacksOperands.not_zero {C : Prop} (h : LacksOperands m s 0 q u) : C :=
  absurd h.lacks (Nat.not_lt_zero _)

theorem LacksOperands.raiseFault (h : LacksOperands m s p q u) :
    UnderflowsSource m s (.next (raiseFault .underflow (srcOf m) u)) := by
  refine ⟨(u.stack (srcOf m)).poke 254 0x01, ?_, err_poke_err _ _, ?_, fun k h254 h255 => ?_⟩
  · rw [Machine.raiseFault, h.same]
    rfl
  · rw [ptr_poke_of_ne _ _ (by decide)]
    exact h.ptr
  · rw [get_poke, if_neg h254, h.page k h255]

theorem LacksOperands.popped {w : Width} {a : Byte} (h : LacksOperands m s (w.bytes + p) q u)
    (ha : a.toNat + w.bytes = (u.stack (srcOf m)).active.toNat) :
    LacksOperands m s p q (u.setStack (srcOf m) ((u.stack (srcOf m)).setActive a)) := by
  obtain ⟨hsame, hlacks, hptr, hpage⟩ := h
  have hle : a ≤ (u.stack (srcOf m)).active := BitVec.le_def.2 (by omega)
  refine ⟨fun st => ?_, ?_, ?_, fun k hk => ?_⟩
  · rw [setStack_setStack, hsame]
  · rw [stack_setStack_self, active_setActive]
    omega
  · rw [stack_setStack_self]
    exact BitVec.le_trans (ptr_setActive_le _ hle) hptr
  · rw [stack_setStack_self, get_setActive _ _ _ hk, hpage k hk]

/-- The keep selection lets the pops begin at the real pointer (R49, R50, R164). -/
theorem lacksOperands_selectKeep (h : (s.stack (srcOf m)).ptr.toNat < p) : LacksOperands m s p q (selectKeep m s) := by
  have start (k : Option Byte) (hk : k.getD (s.stack (srcOf m)).ptr = (s.stack (srcOf m)).ptr) :
      LacksOperands m s p q (s.setStack (srcOf m) { s.stack (srcOf m) with keep := k }) := by
    constructor <;> simp [Stack.active, hk, h]
  rw [selectKeep]
  split
  · exact start (some _) rfl
  · exact start none rfl

/-- An instruction that lacks operands can only pop until it faults: it comes to no push and not to its end. -/
theorem stackRules_lacksOperands (m : Mode) (s : State) :
    StackRules m (LacksOperands m s) (UnderflowsSource m s) where
  underflow _ _ _ _ h _ := h.raiseFault
  popped _ _ _ _ _ h ha := h.popped ha
  overflow _ _ h := h.not_zero
  pushed _ _ _ _ h _ := h.not_zero
  finished _ h := h.not_zero

/-- Nor does it come to a jump, a store, a division or a port. STH and DEO are left out: their rules also speak of what
they do once nothing is left to pop. -/
theorem opRules_lacksOperands {base : Base} (hdst : base ∉ [Base.jsr, .sth]) (hdeo : base ≠ .deo) (m : Mode)
    (s : State) : OpRules base m (LacksOperands m s) (UnderflowsSource m s) where
  toStackRules := stackRules_lacksOperands m s
  overflowDst hc := absurd hc hdst
  pushedDst hc := absurd hc hdst
  divided _ _ _ h := h.not_zero
  jumped _ _ _ h := h.not_zero
  stored _ _ _ _ h := h.not_zero
  input _ _ _ _ h := h.not_zero
  refused hc := absurd hc hdeo
  output _ _ _ _ _ h := h.not_zero

/-- A base operation but JSR, whose return address is pushed before its target is popped (D6), faults in its pops. -/
theorem LacksOperands.baseOp {base : Base} (hb : base ≠ .jsr)
    (h : LacksOperands m s (operandBytes m.width base) (resultBytes m.width base) (selectKeep m s)) :
    UnderflowsSource m s (baseOp base m s) := by
  have rules := stackRules_lacksOperands m s
  by_cases hsth : base = .sth
  · subst hsth
    exact rules.pop _ h rfl fun _ _ h => LacksOperands.not_zero h
  by_cases hdeo : base = .deo
  · subst hdeo
    exact rules.pop8 h rfl fun _ _ h => rules.pop _ h rfl fun _ _ h => LacksOperands.not_zero h
  · exact (opRules_lacksOperands (by simp [hb, hsth]) hdeo m s).baseOp h

end LacksOperands

/-- Settles O31: each pop of an instruction that lacks operands faults or leaves it lacking, so one of them faults. -/
theorem missingOperandsUnderflow : Obligations.MissingOperandsUnderflow := by
  intro base m s hb hlacks
  rw [exec_form]
  exact LacksOperands.baseOp hb (lacksOperands_selectKeep hlacks)

end Sys2Proof.Machine
end

section
/-!
PROOFS. BRK, LIT and the stack operations: one rule for each step of an instruction on its source stack that keeps the
values, so that an instruction's pops and pushes, in the order of its rule, are the proof of its stack picture.
-/

namespace Sys2Proof.Machine

/-! ## Stack pictures -/

/-- The answer is the end of an instruction that has changed nothing of `s` but its source stack, which holds `ys`. -/
def EndsWith (m : Mode) (s : State) (ys : List Byte) (r : Result) : Prop :=
  ∃ st : Stack, r = .next (closeKeep (s.setStack (srcOf m) st)) ∧ st.HoldsOver ys (s.stack (srcOf m))

/-- In `u` an instruction that began in `s` has the values `operands` to pop, the top one first, and then the values
`results` to push, the bottom one first; after that its source stack holds `ys`, which fit in a page. -/
def ToPop (m : Mode) (s : State) (ys : List Byte) (operands results : List (List Byte)) (u : State) : Prop :=
  ∃ (st : Stack) (l : List Byte), u = s.setStack (srcOf m) st ∧
    Popping m.keep (s.stack (srcOf m)) st (l ++ operands.reverse.flatten) ∧
    (if m.keep then (s.stack (srcOf m)).items else l) ++ results.flatten = ys ∧ ys.length ≤ 254

/-- In `u` an instruction that began in `s` has popped its operands and has the values `results` to push, the bottom one
first; after that its source stack holds `ys`, which fit in a page. -/
def ToPush (m : Mode) (s : State) (ys : List Byte) (results : List (List Byte)) (u : State) : Prop :=
  ∃ (st : Stack) (xs : List Byte), u = s.setStack (srcOf m) st ∧ st.HoldsOver xs (s.stack (srcOf m)) ∧
    xs ++ results.flatten = ys ∧ ys.length ≤ 254

section StackPicture

variable {m : Mode} {s u : State} {l ys : List Byte} {w : Width} {v : BitVec w.bits}
  {operands results : List (List Byte)}

/-- The keep selection, with all pops and pushes of the instruction still to do (R164). -/
theorem toPop_selectKeep (h : (s.stack (srcOf m)).items = l ++ operands.reverse.flatten)
    (hroom : (l ++ kept m operands.reverse.flatten ++ results.flatten).length ≤ 254) :
    ToPop m s (l ++ kept m operands.reverse.flatten ++ results.flatten) operands results (selectKeep m s) := by
  obtain ⟨st, e, hp⟩ := selectKeep_items h
  refine ⟨st, l, e, hp, ?_, hroom⟩
  cases hk : m.keep <;> simp [kept, hk, h]

theorem ToPop.pop (h : ToPop m s ys (valueBytes w v :: operands) results u) {next : BitVec w.bits → State → Result}
    (ok : ∀ u, ToPop m s ys operands results u → EndsWith m s ys (next v u)) :
    EndsWith m s ys (Machine.pop (srcOf m) w u next) := by
  obtain ⟨st, l, rfl, hp, hys, hroom⟩ := h
  obtain ⟨st', hp', e⟩ := Popping.pop (xs := l ++ operands.reverse.flatten) s w v (by simpa using hp)
  rw [e]
  exact ok _ ⟨st', l, rfl, hp', hys, hroom⟩

/-- Once the operands are popped the stack holds what keep mode leaves of them, and the pushes begin (R55). -/
theorem ToPop.toPush (h : ToPop m s ys [] results u) : ToPush m s ys results u := by
  obtain ⟨st, l, hu, hp, hys, hroom⟩ := h
  exact ⟨st, _, hu, (show Popping _ _ _ l by simpa using hp).holdsOver, hys, hroom⟩

theorem ToPush.push (h : ToPush m s ys (valueBytes w v :: results) u) {next : State → Result}
    (ok : ∀ u, ToPush m s ys results u → EndsWith m s ys (next u)) :
    EndsWith m s ys (Machine.push (srcOf m) w v u next) := by
  obtain ⟨st, xs, rfl, hst, hys, hroom⟩ := h
  have hfit : xs.length + w.bytes ≤ 254 := by
    rw [← hys] at hroom
    simp only [List.flatten_cons, List.length_append, length_valueBytes] at hroom
    omega
  obtain ⟨st', hst', e⟩ := hst.push s w v hfit
  rw [e]
  exact ok _ ⟨st', _, rfl, hst', by simpa using hys, hroom⟩

theorem ToPush.finish (h : ToPush m s ys [] u) : EndsWith m s ys (Machine.finish u) := by
  obtain ⟨st, xs, rfl, hst, hys, -⟩ := h
  obtain rfl : xs = ys := by simpa using hys
  exact ⟨st, rfl, hst⟩

/-- A base operation has a stack picture where its pops and pushes, from the keep selection on, make it. -/
theorem turns_of_toPop {base : Base} {m : Mode} (operands results : List (List Byte))
    (h : ∀ s ys, ToPop m s ys operands results (selectKeep m s) → EndsWith m s ys (baseOp base m s)) :
    Turns (.form base m) m operands.reverse.flatten results.flatten := by
  intro s l hitems hroom
  obtain ⟨st, e, hst⟩ := h s _ (toPop_selectKeep hitems hroom)
  exact ⟨st, (exec_form base m s).trans e, hst⟩

end StackPicture

/-! ## INC and POP -/

theorem turns_inc (m : Mode) (a : BitVec m.width.bits) :
    Turns (.form .inc m) m (valueBytes _ a) (valueBytes _ (a + 1)) := by
  simpa using turns_of_toPop (base := .inc) [valueBytes _ a] [valueBytes _ (a + 1)] fun _ _ h =>
    h.pop fun _ h => h.toPush.push fun _ h => h.finish

theorem turns_pop (m : Mode) (a : BitVec m.width.bits) : Turns (.form .pop m) m (valueBytes _ a) [] := by
  simpa using turns_of_toPop (base := .pop) [valueBytes _ a] [] fun _ _ h => h.pop fun _ h => h.toPush.finish

/-- Settles O15: by their stack pictures, the successor modulo 2 to the width. -/
theorem incPushesSuccessorAndPopDiscards : Obligations.IncPushesSuccessorAndPopDiscards := by
  intro m a
  have hsucc : BitVec.ofNat m.width.bits (a.toNat + 1) = a + 1 := by simp [BitVec.ofNat_add]
  rw [hsucc]
  exact ⟨turns_inc m a, turns_pop m a⟩

/-! ## NIP, SWP and ROT -/

theorem turns_nip (m : Mode) (b a : BitVec m.width.bits) :
    Turns (.form .nip m) m (valueBytes _ b ++ valueBytes _ a) (valueBytes _ a) := by
  simpa using turns_of_toPop (base := .nip) [valueBytes _ a, valueBytes _ b] [valueBytes _ a] fun _ _ h =>
    h.pop fun _ h => h.pop fun _ h => h.toPush.push fun _ h => h.finish

theorem turns_swp (m : Mode) (b a : BitVec m.width.bits) :
    Turns (.form .swp m) m (valueBytes _ b ++ valueBytes _ a) (valueBytes _ a ++ valueBytes _ b) := by
  simpa using turns_of_toPop (base := .swp) [valueBytes _ a, valueBytes _ b] [valueBytes _ a, valueBytes _ b]
    fun _ _ h => h.pop fun _ h => h.pop fun _ h => h.toPush.push fun _ h => h.push fun _ h => h.finish

theorem turns_rot (m : Mode) (c b a : BitVec m.width.bits) :
    Turns (.form .rot m) m (valueBytes _ c ++ valueBytes _ b ++ valueBytes _ a)
      (valueBytes _ b ++ valueBytes _ a ++ valueBytes _ c) := by
  simpa using turns_of_toPop (base := .rot) [valueBytes _ a, valueBytes _ b, valueBytes _ c]
    [valueBytes _ b, valueBytes _ a, valueBytes _ c] fun _ _ h =>
    h.pop fun _ h => h.pop fun _ h => h.pop fun _ h =>
    h.toPush.push fun _ h => h.push fun _ h => h.push fun _ h => h.finish

/-- Settles O16: by their stack pictures. -/
theorem nipSwpRotRearrange : Obligations.NipSwpRotRearrange :=
  fun m c b a => ⟨turns_nip m b a, turns_swp m b a, turns_rot m c b a⟩

/-! ## DUP and OVR -/

theorem turns_dup (m : Mode) (a : BitVec m.width.bits) :
    Turns (.form .dup m) m (valueBytes _ a) (valueBytes _ a ++ valueBytes _ a) := by
  simpa using turns_of_toPop (base := .dup) [valueBytes _ a] [valueBytes _ a, valueBytes _ a] fun _ _ h =>
    h.pop fun _ h => h.toPush.push fun _ h => h.push fun _ h => h.finish

theorem turns_ovr (m : Mode) (b a : BitVec m.width.bits) :
    Turns (.form .ovr m) m (valueBytes _ b ++ valueBytes _ a)
      (valueBytes _ b ++ valueBytes _ a ++ valueBytes _ b) := by
  simpa using turns_of_toPop (base := .ovr) [valueBytes _ a, valueBytes _ b]
    [valueBytes _ b, valueBytes _ a, valueBytes _ b] fun _ _ h =>
    h.pop fun _ h => h.pop fun _ h =>
    h.toPush.push fun _ h => h.push fun _ h => h.push fun _ h => h.finish

/-- Settles O17: by their stack pictures. -/
theorem dupAndOvrCopy : Obligations.DupAndOvrCopy := fun m b a => ⟨turns_dup m a, turns_ovr m b a⟩

/-! ## LIT -/

theorem stack_with_pc (s : State) (pc : Word) (S : StackId) : State.stack { s with pc := pc } S = s.stack S :=
  stack_congr rfl rfl S

/-- A LIT that fits pops nothing and pushes its immediate, with pc past it (R202). -/
theorem litOp_endsWith {m : Mode} (imm : BitVec m.width.bits) {s : State}
    (hroom : ((s.stack (srcOf m)).items ++ valueBytes _ imm).length ≤ 254) :
    EndsWith m { s with pc := s.pc + BitVec.ofNat 16 m.width.bytes }
      ((s.stack (srcOf m)).items ++ valueBytes _ imm) (litOp m imm s) := by
  have hstart := toPop_selectKeep (m := m) (s := { s with pc := s.pc + BitVec.ofNat 16 m.width.bytes })
    (l := (s.stack (srcOf m)).items) (operands := []) (results := [valueBytes _ imm])
    (by simp [stack_with_pc]) (by simpa [kept] using hroom)
  rw [litOp, ← selectKeep_with_pc]
  simpa [kept] using hstart.toPush.push fun _ h => h.finish

/-- Settles O13: each of the four forms is a LIT in its mode. -/
theorem litPushesImmediate : Obligations.LitPushesImmediate := fun _ b v =>
  ⟨litOp_endsWith (m := ⟨true, false, false⟩) b, litOp_endsWith (m := ⟨true, false, true⟩) v,
    litOp_endsWith (m := ⟨true, true, false⟩) b, litOp_endsWith (m := ⟨true, true, true⟩) v⟩

/-- A fault writes its code to the error byte of its stack (R492). -/
theorem stack_raiseFault_self (kind : FaultKind) (S : StackId) (s : State) :
    (raiseFault kind S s).stack S = (s.stack S).poke 254 kind.code :=
  (stack_congr rfl rfl S).trans (stack_setStack_self _ _ _)

/-- A fault leaves the other stack as it is (R492). -/
theorem stack_raiseFault_of_ne (kind : FaultKind) {S T : StackId} (s : State) (h : T ≠ S) :
    (raiseFault kind S s).stack T = s.stack T :=
  (stack_congr rfl rfl T).trans (stack_setStack_of_ne s _ h)

/-- A LIT that does not fit faults in its push, when pc is already past the immediate (R171, R202, D11). -/
theorem litOp_overflow {m : Mode} (imm : BitVec m.width.bits) {s : State}
    (h : (s.stack (srcOf m)).ptr.toNat ≤ 254 ∧ 254 < (s.stack (srcOf m)).ptr.toNat + m.width.bytes) :
    ∃ t, litOp m imm s = .next t ∧ t.event = some (.error .overflow) ∧ (t.stack (srcOf m)).err = 0x02 ∧
      (t.stack (srcOf m)).items = (s.stack (srcOf m)).items ∧ t.pc = s.pc + BitVec.ofNat 16 m.width.bytes ∧
      t.stack (dstOf m) = s.stack (dstOf m) ∧ t.mem = s.mem ∧ t.port = s.port := by
  obtain ⟨hle, hlt⟩ := h
  obtain ⟨st, e, hp⟩ := selectKeep_popping m { s with pc := s.pc + BitVec.ofNat 16 m.width.bytes }
  have hst : st.items = (s.stack (srcOf m)).items := by simpa [stack_with_pc] using hp.holdsOver.1
  have hptr : st.ptr.toNat = (s.stack (srcOf m)).ptr.toNat := by rw [← length_items, hst, length_items]
  rw [litOp, ← selectKeep_with_pc, e, push_overflow _ _ _ _ (by simpa [hptr]) (by simpa [hptr])]
  refine ⟨_, rfl, rfl, ?_, ?_, by simp, ?_, by simp, by simp⟩
  · rw [stack_raiseFault_self]
    exact err_poke_err _ _
  · rw [stack_raiseFault_self, stack_setStack_self, items_poke_err (hptr.trans_le hle), hst]
  · rw [stack_raiseFault_of_ne _ _ (dstOf_ne_srcOf m), stack_dst_setStack_src, stack_with_pc]

/-- Settles O14: each of the four forms is a LIT in its mode, and its pointer leaves too little room. -/
theorem litOverflowLeavesPcPastImmediate : Obligations.LitOverflowLeavesPcPastImmediate := by
  intro s b v
  have byte (st : Stack) (h : st.ptr = 254) : st.ptr.toNat ≤ 254 ∧ 254 < st.ptr.toNat + 1 := by
    rw [h]
    decide
  have short (st : Stack) (h : st.ptr = 253 ∨ st.ptr = 254) : st.ptr.toNat ≤ 254 ∧ 254 < st.ptr.toNat + 2 := by
    rcases h with h | h <;> rw [h] <;> decide
  exact ⟨fun h => litOp_overflow (m := ⟨true, false, false⟩) b (byte s.wst h),
    fun h => litOp_overflow (m := ⟨true, true, false⟩) b (byte s.rst h),
    fun h => litOp_overflow (m := ⟨true, false, true⟩) v (short s.wst h),
    fun h => litOp_overflow (m := ⟨true, true, true⟩) v (short s.rst h)⟩

/-! ## BRK -/

/-- The answer is no next state that has ended in Break. -/
def NoBreak (r : Result) : Prop := ∀ t, r = .next t → t.event ≠ some .brk

theorem noBreak_next {t : State} (h : t.event ≠ some .brk) : NoBreak (.next t) := fun _ ht =>
  Host.Outcome.next.inj ht ▸ h

theorem noBreak_raiseFault {kind : FaultKind} {S : StackId} {u : State} : NoBreak (.next (raiseFault kind S u)) :=
  noBreak_next (by simp [raiseFault])

theorem noBreak_finishHalt (halt : Option Byte) {u : State} (h : u.event = none) : NoBreak (finishHalt halt u) := by
  cases halt with
  | none => exact noBreak_next (by simp [h])
  | some c => exact noBreak_next (by simp)

/-- Between its pops and pushes an instruction has no event, and what ends it is an Error or no event. -/
theorem stackRules_noBreak (m : Mode) : StackRules m (fun _ _ u => u.event = none) NoBreak where
  underflow _ _ _ _ _ _ := noBreak_raiseFault
  popped _ _ _ _ _ h _ := by simpa using h
  overflow _ _ _ := noBreak_raiseFault
  pushed _ _ _ _ h _ := by simpa using h
  finished _ h := noBreak_next (by simp [h])

/-- Nor does a base operation end in Break: a device can only halt. -/
theorem opRules_noBreak (base : Base) (m : Mode) : OpRules base m (fun _ _ u => u.event = none) NoBreak where
  toStackRules := stackRules_noBreak m
  overflowDst _ _ _ _ _ := noBreak_raiseFault
  pushedDst _ _ _ _ _ _ h _ := by simpa using h
  divided _ _ _ _ := noBreak_raiseFault
  jumped _ _ _ h := h
  stored _ _ _ _ h := h
  input _ port _ u h := by
    obtain ⟨o, ho, -⟩ := devInW_snd port m.width u
    rwa [ho]
  refused _ _ := fun _ ht => by cases ht
  output _ _ halt _ _ h hf _ := noBreak_finishHalt halt (hf.event.trans h)

theorem exec_noBreak {i : Instr} (hi : i ≠ .brk) {s : State} (he : s.event = none) : NoBreak (exec i s) := by
  have nop (m : Mode) : NoBreak (nopOp m s) := (stackRules_noBreak m).nopOp (by simpa using he)
  have lit (m : Mode) (imm : BitVec m.width.bits) : NoBreak (litOp m imm s) :=
    (stackRules_noBreak m).litOp imm (by simpa using he)
  rcases i.special_or_form with hspecial | ⟨base, m, rfl⟩
  · cases hspecial with
    | brk => exact absurd rfl hi
    | nop20 | nop40 | nop60 => exact nop _
    | lit b => exact lit ⟨true, false, false⟩ b
    | lit2 v => exact lit ⟨true, false, true⟩ v
    | litr b => exact lit ⟨true, true, false⟩ b
    | lit2r v => exact lit ⟨true, true, true⟩ v
  · rw [exec_form]
    exact (opRules_noBreak base m).baseOp (by simpa using he)

/-- Settles O11: BRK and the tick that finds it do nothing else, and every other instruction ends without a Break. -/
theorem brkBreaksAndKeepsPc : Obligations.BrkBreaksAndKeepsPc := by
  refine ⟨fun _ => rfl, fun s he hop => ?_, fun i s t he e hbrk => ?_⟩
  · exact (step_of_running he).trans (if_pos hop)
  · by_contra hi
    exact exec_noBreak hi he t e hbrk

end Sys2Proof.Machine
end

section
/-!
PROOFS. Comparisons, jumps and stash (spec/42_compare_jump.md). The comparisons have a stack picture; a jump also moves
pc; JSR and STH also push onto the destination stack, where they go on or overflow.
-/

namespace Sys2Proof.Machine

/-! ## Comparisons -/

/-- The boolean byte of a test is 0x01 where the relation that it decides holds (R240). -/
theorem boolByte_eq_ite {holds : Bool} {p : Prop} [Decidable p] (h : holds = true ↔ p) :
    boolByte holds = if p then 0x01 else 0x00 := if_congr h rfl rfl

/-- A comparison pops a, then b, and pushes one byte at either width (R240). -/
theorem turns_compare {base : Base} {m : Mode} {holds : (n : Nat) → (b a : BitVec n) → Bool}
    (hbase : baseOp base m = compareOp holds m) (b a : BitVec m.width.bits) {p : Prop} [Decidable p]
    (hp : holds m.width.bits b a = true ↔ p) :
    Turns (.form base m) m (valueBytes _ b ++ valueBytes _ a) [if p then 0x01 else 0x00] := by
  have h := turns_of_toPop (base := base) (m := m) [valueBytes _ a, valueBytes _ b]
    [valueBytes .byte (boolByte (holds m.width.bits b a))] fun s ys h => by
      rw [hbase]
      exact h.pop fun _ h => h.pop fun _ h => h.toPush.push (w := .byte) fun _ h => h.finish
  rw [boolByte_eq_ite hp] at h
  simpa [valueBytes] using h

/-- Settles O18: each comparison decides its relation of the unsigned values. -/
theorem comparisonsPushOneBooleanByte : Obligations.ComparisonsPushOneBooleanByte := by
  intro m b a
  refine ⟨?equ, ?neq, ?gth, ?lth⟩
  case equ =>
    exact turns_compare (base := .equ) (holds := fun _ b a => b == a) rfl b a (beq_iff_eq.trans BitVec.toNat_inj.symm)
  case neq =>
    rw [← ite_not]
    exact turns_compare (base := .neq) (holds := fun _ b a => b != a) rfl b a
      (bne_iff_ne.trans BitVec.toNat_inj.symm.not)
  case gth => exact turns_compare (base := .gth) (holds := fun _ b a => a.ult b) rfl b a BitVec.ult_iff_lt
  case lth => exact turns_compare (base := .lth) (holds := fun _ b a => b.ult a) rfl b a BitVec.ult_iff_lt

/-! ## JMP and JCN -/

/-- The target of a jump by the short bit of its mode (R132, R245). -/
theorem jumpTarget_eq (m : Mode) (pc : Word) (t : BitVec m.width.bits) : jumpTarget pc m.width t =
    if m.short then t.setWidth 16 else BitVec.ofInt 16 (pc.toNat + (t.setWidth 8).toInt) := by
  obtain ⟨k, r, _ | _⟩ := m
  · exact (relativeAddress_eq pc t).trans
      (congrArg (fun d : Byte => BitVec.ofInt 16 (pc.toNat + d.toInt)) (BitVec.setWidth_eq t).symm)
  · exact (BitVec.setWidth_eq t).symm

theorem completes_jmp {m : Mode} {s : State} {l : List Byte} {t : BitVec m.width.bits}
    (h : (s.stack (srcOf m)).items = l ++ valueBytes _ t) :
    Completes (.form .jmp m) s (srcOf m) (l ++ kept m (valueBytes _ t))
      { s with pc := jumpTarget s.pc m.width t } := by
  obtain ⟨st, e, hp⟩ := selectKeep_items h
  obtain ⟨st', hp', e'⟩ := hp.pop s _ t
  refine ⟨st', ?_, hp'.holdsOver_kept h⟩
  rw [exec_form, setStack_with_pc]
  simp only [baseOp, jmpOp, e, e', finish, pc_setStack]

/-- Settles O19: the target by the width of the mode. -/
theorem jmpSetsPc : Obligations.JmpSetsPc := by
  intro k r s l d t
  refine ⟨fun h => ?_, fun h => completes_jmp (m := ⟨k, r, true⟩) (t := t) h⟩
  rw [← relativeAddress_eq]
  exact completes_jmp (m := ⟨k, r, false⟩) (t := d) h

theorem completes_jcn {m : Mode} {s : State} {l : List Byte} {t : BitVec m.width.bits} {c : Byte}
    (h : (s.stack (srcOf m)).items = l ++ (valueBytes _ t ++ [c])) :
    Completes (.form .jcn m) s (srcOf m) (l ++ kept m (valueBytes _ t ++ [c]))
      { s with pc := if c = 0 then s.pc else jumpTarget s.pc m.width t } := by
  obtain ⟨st, e, hp⟩ := selectKeep_items (m := m) (xs := (l ++ valueBytes _ t) ++ [c]) (by simpa using h)
  obtain ⟨st1, hp1, e1⟩ := hp.pop8 s c
  obtain ⟨st2, hp2, e2⟩ := hp1.pop s _ t
  refine ⟨st2, ?_, hp2.holdsOver_kept h⟩
  rw [exec_form, setStack_with_pc]
  simp only [baseOp, jcnOp, e, e1, e2, finish, pc_setStack, conditionHolds, decide_eq_true_eq, ne_eq, ite_not]

/-- Settles O20: the target by the width of the mode, as for JMP. -/
theorem jcnJumpsOnNonzeroCondition : Obligations.JcnJumpsOnNonzeroCondition := by
  intro k r s l c d t
  refine ⟨fun h => ?_, fun h => completes_jcn (m := ⟨k, r, true⟩) (t := t) h⟩
  rw [← relativeAddress_eq]
  exact completes_jcn (m := ⟨k, r, false⟩) (t := d) h

/-! ## The destination stack -/

section Destination

variable {m : Mode} {s : State} {w : Width}

/-- A push onto the destination stack that fits, whatever the source stack is by then (R44, R45). -/
theorem pushDst_holdsOver (src : Stack) (v : BitVec w.bits)
    (hroom : (s.stack (dstOf m)).items.length + w.bytes ≤ 254) :
    ∃ dst : Stack, dst.HoldsOver ((s.stack (dstOf m)).items ++ valueBytes w v) (s.stack (dstOf m)) ∧
      ∀ next, push (dstOf m) w v (s.setStack (srcOf m) src) next =
        next ((s.setStack (srcOf m) src).setStack (dstOf m) dst) :=
  push_holdsOver w v (by simpa using holdsOver_refl (s.stack (dstOf m))) hroom

/-- A push onto the destination stack that does not fit, whatever the source stack is by then (R44, R45, R492). -/
theorem pushDst_overflow (src : Stack) (v : BitVec w.bits) (hle : (s.stack (dstOf m)).ptr.toNat ≤ 254)
    (hlt : 254 < (s.stack (dstOf m)).ptr.toNat + w.bytes) :
    ∃ dst : Stack, dst.err = 0x02 ∧ dst.items = (s.stack (dstOf m)).items ∧
      ∀ next, push (dstOf m) w v (s.setStack (srcOf m) src) next =
        .next { (s.setStack (srcOf m) src).setStack (dstOf m) dst with event := some (.error .overflow) } := by
  refine ⟨(s.stack (dstOf m)).poke 254 0x02, err_poke_err _ _, items_poke_err hle _, fun next => ?_⟩
  rw [push_overflow _ _ _ _ (by simpa using hle) (by simpa using hlt), raiseFault, stack_dst_setStack_src]
  rfl

end Destination

/-! ## JSR and STH -/

/-- The keep selection touches nothing but the keep pointer of the source stack (R164). -/
theorem selectKeep_eq_setStack (m : Mode) (s : State) :
    ∃ k, selectKeep m s = s.setStack (srcOf m) { s.stack (srcOf m) with keep := k } := by
  rw [selectKeep]
  split
  · exact ⟨_, rfl⟩
  · exact ⟨_, rfl⟩

/-- JSR begins with the push of a short (R48, R247). -/
theorem jsrOp_eq (m : Mode) (s : State) : jsrOp m s = push (dstOf m) .short s.pc (selectKeep m s) fun u =>
    pop (srcOf m) m.width u fun t u => finish { u with pc := jumpTarget u.pc m.width t } := rfl

section ReturnAndStash

variable {m : Mode} {s : State} {l : List Byte} {a : BitVec m.width.bits}

/-- JSR pushes its return address and then pops its target, all of the source stack still there (R247, D6). -/
theorem jsrOp_of_room (hroom : (s.stack (dstOf m)).items.length + 2 ≤ 254) :
    ∃ src dst : Stack, Popping m.keep (s.stack (srcOf m)) src (s.stack (srcOf m)).items ∧
      dst.HoldsOver ((s.stack (dstOf m)).items ++ [hiByte s.pc, loByte s.pc]) (s.stack (dstOf m)) ∧
      jsrOp m s = pop (srcOf m) m.width ((s.setStack (dstOf m) dst).setStack (srcOf m) src)
        fun t u => finish { u with pc := jumpTarget u.pc m.width t } := by
  obtain ⟨src, e, hp⟩ := selectKeep_popping m s
  obtain ⟨dst, hdst, e'⟩ := pushDst_holdsOver (w := .short) src s.pc hroom
  refine ⟨src, dst, hp, hdst, ?_⟩
  rw [jsrOp_eq, e, e', setStack_comm s dst src (dstOf_ne_srcOf m).symm]

/-- STH with its value pops it and then pushes it onto the destination stack (R248). -/
theorem sthOp_of_items (h : (s.stack (srcOf m)).items = l ++ valueBytes _ a) :
    ∃ src : Stack, src.HoldsOver (l ++ kept m (valueBytes _ a)) (s.stack (srcOf m)) ∧
      sthOp m s = push (dstOf m) m.width a (s.setStack (srcOf m) src) finish := by
  obtain ⟨st, e, hp⟩ := selectKeep_items h
  obtain ⟨st', hp', e'⟩ := hp.pop s _ a
  exact ⟨st', hp'.holdsOver_kept h, by rw [sthOp, e, e']⟩

/-- JSR without room for its return address faults in its first step, before it pops (R247, D6). -/
theorem jsrOp_overflow (hle : (s.stack (dstOf m)).ptr.toNat ≤ 254)
    (hlt : 254 < (s.stack (dstOf m)).ptr.toNat + 2) :
    ∃ src dst : Stack,
      jsrOp m s = .next { (s.setStack (srcOf m) src).setStack (dstOf m) dst with
        event := some (.error .overflow) } ∧
      dst.err = 0x02 ∧ dst.items = (s.stack (dstOf m)).items ∧ src.page = (s.stack (srcOf m)).page := by
  obtain ⟨k, e⟩ := selectKeep_eq_setStack m s
  obtain ⟨dst, herr, hitems, e'⟩ := pushDst_overflow (w := .short) { s.stack (srcOf m) with keep := k } s.pc hle hlt
  exact ⟨{ s.stack (srcOf m) with keep := k }, dst, by rw [jsrOp_eq, e, e'], herr, hitems, rfl⟩

/-- JSR without its target faults in its pop, the return address already pushed (R171, R247, D6). -/
theorem jsrOp_underflow (hlacks : (s.stack (srcOf m)).ptr.toNat < m.width.bytes)
    (hroom : (s.stack (dstOf m)).items.length + 2 ≤ 254) :
    ∃ src dst : Stack,
      jsrOp m s = .next { (s.setStack (srcOf m) src).setStack (dstOf m) dst with
        event := some (.error .underflow) } ∧
      src.err = 0x01 ∧ src.items = (s.stack (srcOf m)).items ∧
      dst.HoldsOver ((s.stack (dstOf m)).items ++ [hiByte s.pc, loByte s.pc]) (s.stack (dstOf m)) := by
  obtain ⟨st, dst, hp, hdst, e⟩ := jsrOp_of_room hroom
  have hitems : st.items = (s.stack (srcOf m)).items := by simpa using hp.holdsOver.1
  have hptr : st.ptr.toNat = (s.stack (srcOf m)).ptr.toNat := by rw [← length_items, hitems, length_items]
  have hactive : st.active.toNat = (s.stack (srcOf m)).ptr.toNat := by
    rw [← length_activeItems, hp.items, length_items]
  have hbytes : m.width.bytes ≤ 2 := by cases m.width <;> decide
  refine ⟨st.poke 254 0x01, dst, ?_, err_poke_err _ _, (items_poke_err (by omega) _).trans hitems, hdst⟩
  rw [e, pop_underflow _ _ _ (by simpa [hactive] using hlacks), raiseFault, stack_setStack_self, setStack_setStack,
    setStack_comm s dst _ (dstOf_ne_srcOf m).symm]
  rfl

end ReturnAndStash

/-- Settles O21: with the return address pushed, the target is there to pop. -/
theorem jsrPushesReturnAddress : Obligations.JsrPushesReturnAddress := by
  intro m s l t h hroom
  obtain ⟨st, dst, hp, hdst, e⟩ := jsrOp_of_room hroom
  rw [h] at hp
  obtain ⟨src, hsrc, e'⟩ := hp.pop (s.setStack (dstOf m) dst) _ t
  refine ⟨src, dst, ?_, hsrc.holdsOver_kept h, hdst⟩
  rw [exec_form, ← jumpTarget_eq]
  show jsrOp m s = _
  rw [e, e', setStack_comm s dst src (dstOf_ne_srcOf m).symm, finish, pc_setStack, pc_setStack]

/-- Settles O22: JSR pushes first and STH pops first, and the first step that cannot go on faults. -/
theorem jsrAndSthFaultInStatementOrder : Obligations.JsrAndSthFaultInStatementOrder := by
  intro m s l a
  rw [exec_form, exec_form]
  refine ⟨fun h => ?_, jsrOp_underflow, fun h hle hlt => ?_⟩
  · have hptr : (s.stack (dstOf m)).ptr.toNat = 253 ∨ (s.stack (dstOf m)).ptr.toNat = 254 :=
      h.imp (congrArg BitVec.toNat) (congrArg BitVec.toNat)
    exact jsrOp_overflow (by omega) (by omega)
  · obtain ⟨src, hsrc, e⟩ := sthOp_of_items h
    obtain ⟨dst, herr, hitems, e'⟩ := pushDst_overflow src a hle hlt
    exact ⟨src, dst, e.trans (e' _), herr, hitems, hsrc⟩

/-- Settles O23: the popped value is pushed onto the destination stack, which has room for it. -/
theorem sthMovesValueToOtherStack : Obligations.SthMovesValueToOtherStack := by
  intro m s l a h hroom
  obtain ⟨src, hsrc, e⟩ := sthOp_of_items h
  obtain ⟨dst, hdst, e'⟩ := pushDst_holdsOver src a (by simpa [length_valueBytes] using hroom)
  exact ⟨src, dst, (exec_form .sth m s).trans (e.trans (e' _)), hsrc, hdst⟩

end Sys2Proof.Machine
end

section
/-!
PROOFS. Loads and stores (spec/43_load_store.md). A load or a store pops its address and then reads or writes the bytes
there: once for every base operation, over the way the address comes from pc and the popped operand.
-/

namespace Sys2Proof.Machine

/-! ## Values in memory -/

/-- The value read at a width is the bytes of memory at its address, high byte first (R81, R88). -/
theorem valueBytes_readW (mem : Memory) (a : Word) (w : Width) :
    valueBytes w (mem.readW a w) = mem.readBytes a w.bytes := by
  cases w with
  | byte => rfl
  | short => simp [valueBytes, Memory.readW, Memory.read16, Width.bytes, Memory.readBytes]

/-- A value is written as its bytes in order, high byte first (R82, R88). -/
theorem Memory.writeW_eq_writeBytes (mem : Memory) (a : Word) (w : Width) (v : BitVec w.bits) :
    mem.writeW a w v = mem.writeBytes a (valueBytes w v) := by
  cases w <;> rfl

/-- A value written is read back byte for byte, and every byte outside it reads as before (R82). -/
theorem storedAt_writeW {mem : Memory} (hmem : mem.wf) (a : Word) (w : Width) (v : BitVec w.bits) :
    StoredAt (mem.writeW a w v) mem a w v := by
  have hlen : (valueBytes w v).length ≤ 65536 := by
    rw [length_valueBytes]
    cases w <;> decide
  rw [Memory.writeW_eq_writeBytes]
  constructor
  · simpa [length_valueBytes] using Memory.readBytes_writeBytes hmem a (valueBytes w v) hlen
  · intro x hx
    exact Memory.read_writeBytes_of_outside hmem a x _ (by simpa [length_valueBytes] using hx)

/-! ## The operations -/

section LoadStore

variable {base : Base} {m : Mode} {w : Width} {address : Word → BitVec w.bits → Word}
  {s : State} {l : List Byte} {x : BitVec w.bits} {v : BitVec m.width.bits}

/-- A base operation that pops its address and loads from there pushes the bytes it finds (R280, R282, R284). -/
theorem completes_load
    (hbase : baseOp base m = fun s => pop (srcOf m) w (selectKeep m s) fun x s => loadFrom m (address s.pc x) s)
    (h : (s.stack (srcOf m)).items = l ++ valueBytes w x)
    (hroom : (l ++ kept m (valueBytes w x) ++ memoryBytes s (address s.pc x) m.width).length ≤ 254) :
    Completes (.form base m) s (srcOf m)
      (l ++ kept m (valueBytes w x) ++ memoryBytes s (address s.pc x) m.width) s := by
  obtain ⟨st, e, hp⟩ := selectKeep_items h
  obtain ⟨st1, hp1, e1⟩ := hp.pop s w x
  rw [memoryBytes, ← valueBytes_readW, List.length_append, length_valueBytes] at hroom
  obtain ⟨st2, hst2, e2⟩ := (hp1.holdsOver_kept h).push (S := srcOf m) s _ (s.mem.readW (address s.pc x) m.width) hroom
  refine ⟨st2, ?_, by rwa [memoryBytes, ← valueBytes_readW]⟩
  rw [exec_form, hbase]
  simp only [e, e1, loadFrom, pc_setStack, mem_setStack, e2, finish]

/-- A base operation that pops its address and stores there pops the value next; in canonical memory it leaves the
value at its address and every other byte as it was (R281, R283, R285, R82, D4). -/
theorem exists_storedAt_completes
    (hbase : baseOp base m = fun s => pop (srcOf m) w (selectKeep m s) fun x s => storeTo m (address s.pc x) s)
    (hmem : s.mem.wf) (h : (s.stack (srcOf m)).items = l ++ valueBytes _ v ++ valueBytes w x) :
    ∃ mem, StoredAt mem s.mem (address s.pc x) m.width v ∧
      Completes (.form base m) s (srcOf m) (l ++ kept m (valueBytes _ v ++ valueBytes w x)) { s with mem := mem } := by
  obtain ⟨st, e, hp⟩ := selectKeep_items h
  obtain ⟨st1, hp1, e1⟩ := hp.pop s w x
  obtain ⟨st2, hp2, e2⟩ := hp1.pop s _ v
  refine ⟨_, storedAt_writeW hmem _ _ v, st2, ?_, hp2.holdsOver_kept (h.trans (List.append_assoc _ _ _))⟩
  rw [exec_form, hbase, setStack_with_mem]
  simp only [e, e1, storeTo, e2, finish, pc_setStack, mem_setStack]

end LoadStore

/-- Settles O24: each load by the way its address is made. -/
theorem loadsPushMemoryBytes : Obligations.LoadsPushMemoryBytes := by
  intro m s l b a
  rw [← zeroPageAddress_eq, ← relativeAddress_eq]
  refine ⟨?ldz, ?ldr, ?lda⟩
  case ldz => exact completes_load (base := .ldz) (w := .byte) (address := fun _ b => zeroPageAddress b) rfl
  case ldr => exact completes_load (base := .ldr) (w := .byte) (address := relativeAddress) rfl
  case lda => exact completes_load (base := .lda) (w := .short) (address := fun _ a => a) rfl

/-- Settles O25: each store by the way its address is made. -/
theorem storesWriteOnlyTheirBytes : Obligations.StoresWriteOnlyTheirBytes := by
  intro m s l b a v hmem
  refine ⟨?stz, ?str, ?sta⟩
  case stz =>
    exact exists_storedAt_completes (base := .stz) (w := .byte) (address := fun _ b => zeroPageAddress b) rfl hmem
  case str => exact exists_storedAt_completes (base := .str) (w := .byte) (address := relativeAddress) rfl hmem
  case sta => exact exists_storedAt_completes (base := .sta) (w := .short) (address := fun _ a => a) rfl hmem

end Sys2Proof.Machine
end

section
/-!
PROOFS. Device input and output (spec/44_device_io.md). DEI pushes what the bus gives for its ports, one port after the
other, and that is the stored bytes outside the datetime slot and an answer of the host within it; DEO to ports without
an action only stores its bytes.
-/

namespace Sys2Proof.Machine

/-! ## The width of a mode -/

theorem width_eq_short_iff (m : Mode) : m.width = .short ↔ m.short = true := by
  cases h : m.short <;> simp [Mode.width, h]

theorem width_eq_byte_iff (m : Mode) : m.width = .byte ↔ m.short = false := by
  cases h : m.short <;> simp [Mode.width, h]

/-! ## DEI -/

/-- The input at a width does not look at the stacks. -/
theorem devInW_setStack (p : Byte) (w : Width) (s : State) (S : StackId) (st : Stack) :
    devInW p w (s.setStack S st) = ((devInW p w s).1, (devInW p w s).2.setStack S st) := by
  cases w <;> simp only [devInW, devIn_setStack]

/-- The input in short mode: that of the port, then that of the next port in the state the first left (R310, D9). -/
theorem valueBytes_devInW_short (p : Byte) (s : State) :
    valueBytes .short (devInW p .short s).1 = [(devIn p s).1, (devIn (p + 1) (devIn p s).2).1] := by
  simp only [valueBytes, devInW, hiByte_joinBytes, loByte_joinBytes]

/-- Input of ports outside the datetime slot is the stored bytes, and changes nothing (R310, R381). -/
theorem devInW_of_stored {p : Byte} {w : Width} (s : State) (hp : slotOf p ≠ 0xC)
    (hnext : w = .short → slotOf (p + 1) ≠ 0xC) :
    valueBytes w (devInW p w s).1 = s.port.get p :: (if w = .short then [s.port.get (p + 1)] else []) ∧
      (devInW p w s).2 = s := by
  cases w with
  | byte => simp [valueBytes, devInW, devIn_of_stored hp]
  | short =>
    rw [valueBytes_devInW_short, devInW, devIn_of_stored hp, devIn_of_stored (hnext rfl)]
    exact ⟨rfl, rfl⟩

/-- DEI pops its port and pushes the input of the bus, which may have changed the host side (R310). -/
theorem completes_dei {m : Mode} {s : State} {l : List Byte} {p : Byte} (h : (s.stack (srcOf m)).items = l ++ [p])
    (hroom : (l ++ kept m [p]).length + m.width.bytes ≤ 254) :
    Completes (.form .dei m) s (srcOf m) (l ++ kept m [p] ++ valueBytes _ (devInW p m.width s).1)
      (devInW p m.width s).2 := by
  obtain ⟨st, e, hp⟩ := selectKeep_items h
  obtain ⟨st1, hp1, e1⟩ := hp.pop8 s p
  obtain ⟨st2, hst2, e2⟩ :=
    (hp1.holdsOver_kept h).push (S := srcOf m) (devInW p m.width s).2 m.width (devInW p m.width s).1 hroom
  refine ⟨st2, ?_, hst2⟩
  rw [exec_form]
  simp only [baseOp, deiOp, e, e1, devInW_setStack, e2, finish]

/-- Settles O37: outside the datetime slot the input of the bus is the stored bytes. -/
theorem deiPushesStoredPorts : Obligations.DeiPushesStoredPorts := by
  intro m s l p h hp hnext hroom
  obtain ⟨hbytes, hsame⟩ := devInW_of_stored (w := m.width) s hp (by simpa [width_eq_short_iff] using hnext)
  simp only [width_eq_short_iff] at hbytes
  have key := completes_dei h
  rw [hbytes, hsame] at key
  refine key ?_
  rwa [← hbytes, List.length_append, length_valueBytes] at hroom

/-! ## The datetime ports -/

theorem devIn_clock (index : BitVec 4) (s : State) : devIn (0xC#4 ++ index) s = hostClock index s := by
  rw [devIn, if_pos (slotOf_clock index), localOf_clock]

/-- A described datetime port shows its field of the reading that the source makes of the host's answer (R393, R394). -/
theorem hostClock_of_le {index : BitVec 4} (h : index ≤ 0xA) {s : State} {answered : ClockAnswer}
    (ha : answer s.outside.clocks Config.clockAnswer s.outside.draws = answered) :
    hostClock index s = (clockField s.params
        (readingOf s.timeSource answered (s.outside.monotonic + clockAdvance answered)) index,
      { s with outside :=
        { s.outside with
          clocks := s.outside.clocks.tail
          draws := s.outside.draws + 1
          monotonic := s.outside.monotonic + clockAdvance answered
          calls := s.outside.calls ++ [.clock index] } }) := by
  subst ha
  exact if_pos h

/-- An undescribed datetime port is a byte of the host (R395, D18). -/
theorem hostClock_of_lt {index : BitVec 4} (h : 0xA < index) (s : State) :
    hostClock index s = takeUndefined (s.call (.clock index)) :=
  if_neg (Nat.not_le.2 h)

/-- A failed query of any source but a static one reads as the epoch (R394). -/
theorem readingOf_failure {source : TimeSource} (h : ∀ instant, source ≠ .staticInstant instant) (monotonic : Nat) :
    readingOf source .failure monotonic = epochReading := by
  cases source with
  | staticInstant instant => exact absurd rfl (h instant)
  | localTime | utc | customFromInstant => rfl

/-- Settles O38: DEI by the width of its mode, and a datetime port by whether the source describes it. -/
theorem deiReadsItsPortsInOrderAndTheClock : Obligations.DeiReadsItsPortsInOrderAndTheClock := by
  refine ⟨fun m s l p h hroom => ?dei, fun s index answered hle ha => ?described, fun s index hlt => ?undescribed⟩
  case dei =>
    have key := completes_dei h hroom
    obtain ⟨k, r, _ | _⟩ := m
    · exact key
    · rwa [show Mode.width ⟨k, r, true⟩ = .short from rfl, valueBytes_devInW_short] at key
  case described =>
    refine ⟨readingOf s.timeSource answered (s.outside.monotonic + clockAdvance answered), ?_, ?_, ?_, ?_⟩
    · intro instant hs
      rw [hs]
      rfl
    · rintro rfl hs
      exact readingOf_failure hs _
    · rintro reading advance rfl
      refine ⟨fun hs => ?_, fun hs => ?_, fun baseline anchor hs => ?_⟩ <;> rw [hs] <;> rfl
    · rw [devIn_clock, hostClock_of_le hle ha]
  case undescribed =>
    rw [devIn_clock, hostClock_of_lt hlt]
    refine ⟨_, _, rfl, rfl, fun given later hready => ?_⟩
    show answer s.outside.dtUndefs _ _ = given
    rw [hready]
    rfl

/-! ## DEO to ports without an action -/

/-- A port is its slot and its local index (R380). -/
theorem eq_slot_append_local {p : Byte} {slot index : BitVec 4} (hs : slotOf p = slot) (hl : localOf p = index) :
    p = slot ++ index := by
  rw [← hs, ← hl]
  have whole : slotOf p ++ localOf p = p.extractLsb' 0 8 := BitVec.extractLsb'_append_extractLsb'_eq_extractLsb' rfl
  exact (whole.trans BitVec.extractLsb'_eq_self).symm

/-- A file device does nothing at a local index that names none of its triggers (R432). -/
theorem fileTrigger_of_no_trigger {index : BitVec 4} (h : fileTriggerIndex index = false) (i : FileId) (s : State) :
    fileTrigger i index s = .ok s := by
  have hne (n : BitVec 4) (hn : fileTriggerIndex n = true) : index.toNat ≠ n.toNat := by
    intro hc
    rw [BitVec.eq_of_toNat_eq hc, hn] at h
    cases h
  unfold fileTrigger
  split
  · next hc => exact absurd hc (hne 0x4 rfl)
  · next hc => exact absurd hc (hne 0x6 rfl)
  · next hc => exact absurd hc (hne 0x8 rfl)
  · next hc => exact absurd hc (hne 0xC rfl)
  · next hc => exact absurd hc (hne 0xE rfl)
  · rfl

theorem fileSlotTrigger_of_no_trigger {index : BitVec 4} (h : fileTriggerIndex index = false) (i : FileId)
    (s : State) (next : Option Byte → State → Result) : fileSlotTrigger i index s next = next none s := by
  rw [fileSlotTrigger, fileTrigger_of_no_trigger h]

/-- The trigger of a quiet port does nothing, in each of the slots that have an action (R384, R398, R401, D36). -/
theorem trigger_of_quiet {p : Byte} (h : quietPort p = true) (s : State) (next : Option Byte → State → Result) :
    trigger p s next = next none s := by
  simp only [quietPort, Bool.not_eq_true', Bool.or_eq_false_iff, Bool.and_eq_false_imp, Bool.or_eq_true,
    decide_eq_false_iff_not, decide_eq_true_eq] at h
  obtain ⟨⟨⟨⟨hE, hF⟩, h8⟩, h9⟩, hfile⟩ := h
  unfold trigger
  split
  · next h0 =>
    rw [systemTrigger, if_neg fun hl => hE (eq_slot_append_local h0 hl),
      if_neg fun hl => hF (eq_slot_append_local h0 hl)]
  · split
    · next h1 =>
      rw [consoleTrigger, if_neg fun hl => h8 (eq_slot_append_local h1 hl),
        if_neg fun hl => h9 (eq_slot_append_local h1 hl)]
    · split
      · next hA => exact fileSlotTrigger_of_no_trigger (hfile (.inl hA)) .file0 s next
      · split
        · next hB => exact fileSlotTrigger_of_no_trigger (hfile (.inr hB)) .file1 s next
        · rfl

/-- The port page with a value stored at a width, its second byte at the next port, modulo 2^8 (R382, R383, D8). -/
def Page.setW (port : Page) (p : Byte) : (w : Width) → BitVec w.bits → Page
  | .byte, b => port.set p b
  | .short, v => (port.set p (hiByte v)).set (p + 1) (loByte v)

theorem Page.get_setW_byte (port : Page) (p : Byte) {w : Width} (v : BitVec w.bits) (hw : w = .byte) :
    (port.setW p w v).get p = v.setWidth 8 := by
  subst hw
  exact (Page.get_set_self _ _ _).trans (BitVec.setWidth_eq v).symm

theorem Page.get_setW_short (port : Page) (p : Byte) {w : Width} (v : BitVec w.bits) (hw : w = .short) :
    (port.setW p w v).get p = hiByte (v.setWidth 16) ∧ (port.setW p w v).get (p + 1) = loByte (v.setWidth 16) := by
  subst hw
  rw [BitVec.setWidth_eq]
  exact ⟨(Page.get_set_of_ne _ _ (ne_add_one p)).trans (Page.get_set_self _ _ _), Page.get_set_self _ _ _⟩

theorem Page.get_setW_of_ne (port : Page) {p q : Byte} {w : Width} (v : BitVec w.bits) (hq : q ≠ p)
    (hnext : w = .short → q ≠ p + 1) : (port.setW p w v).get q = port.get q := by
  cases w with
  | byte => exact Page.get_set_of_ne _ _ hq
  | short => exact (Page.get_set_of_ne _ _ (hnext rfl)).trans (Page.get_set_of_ne _ _ hq)

/-- Output to quiet ports only stores its bytes (R382, R383, R398). -/
theorem devOutW_of_quiet {p : Byte} {w : Width} (v : BitVec w.bits) (s : State)
    (next : Option Byte → State → Result) (hp : quietPort p = true) (hnext : w = .short → quietPort (p + 1) = true) :
    devOutW p w v s next = next none { s with port := s.port.setW p w v } := by
  cases w with
  | byte => exact trigger_of_quiet hp _ _
  | short => exact (trigger_of_quiet hp _ _).trans (trigger_of_quiet (hnext rfl) _ _)

/-- Settles O40: the trigger of each port does nothing, so the output is the store of its bytes. -/
theorem deoToQuietPortOnlyStores : Obligations.DeoToQuietPortOnlyStores := by
  intro m s l p v h hp hnext
  obtain ⟨st, hst, e⟩ := exec_deo (h.trans (List.append_assoc _ _ _))
  simp only [← width_eq_short_iff, ← width_eq_byte_iff] at hnext ⊢
  refine ⟨s.port.setW p m.width v, ⟨st, ?_, hst⟩, Page.get_setW_byte _ _ v, Page.get_setW_short _ _ v,
    fun q => Page.get_setW_of_ne _ v⟩
  rw [e, devOutW_of_quiet v _ _ hp hnext, port_setStack, setStack_with_port s _ st (s.port.setW p m.width v)]
  rfl

end Sys2Proof.Machine
end

section
/-!
PROOFS. Arithmetic, logic and shift (spec/45_arith_logic.md). The binary operations share one stack picture, over the
function of the two values; DIV has it where its divisor is not zero and faults after its pops where it is; SFT has one
of its own, since its control byte is a byte at either width.
-/

namespace Sys2Proof.Machine

/-! ## Binary operations -/

/-- A binary operation pops a, then b, and pushes what its function makes of them (R348). -/
theorem turns_binary {base : Base} {m : Mode} {op : (n : Nat) → (b a : BitVec n) → BitVec n}
    (hbase : baseOp base m = binaryOp op m) (b a : BitVec m.width.bits) :
    Turns (.form base m) m (valueBytes _ b ++ valueBytes _ a) (valueBytes _ (op m.width.bits b a)) := by
  simpa using turns_of_toPop (base := base) [valueBytes _ a, valueBytes _ b] [valueBytes _ (op m.width.bits b a)]
    fun _ _ h => by
      rw [hbase]
      exact h.pop fun _ h => h.pop fun _ h => h.toPush.push fun _ h => h.finish

/-- The difference of the words is the difference of their values as integers, modulo 2 to the width (R341). -/
theorem ofInt_toNat_sub_toNat {n : Nat} (b a : BitVec n) : BitVec.ofInt n ((b.toNat : Int) - a.toNat) = b - a := by
  apply BitVec.eq_of_toInt_eq
  rw [BitVec.toInt_ofInt, BitVec.toInt_sub, BitVec.toInt_eq_toNat_bmod, BitVec.toInt_eq_toNat_bmod, Int.bmod_sub_bmod,
    Int.sub_bmod_bmod]

/-- Settles O26: by their stack picture, the sum, difference and product of words being those of their values modulo 2
to the width. -/
theorem arithmeticWraps : Obligations.ArithmeticWraps := by
  intro m b a
  have hadd : BitVec.ofNat m.width.bits (b.toNat + a.toNat) = b + a := by simp [BitVec.ofNat_add]
  have hmul : BitVec.ofNat m.width.bits (b.toNat * a.toNat) = b * a := by simp [BitVec.ofNat_mul]
  rw [hadd, ofInt_toNat_sub_toNat, hmul]
  exact ⟨turns_binary (base := .add) (op := fun _ b a => b + a) rfl b a,
    turns_binary (base := .sub) (op := fun _ b a => b - a) rfl b a,
    turns_binary (base := .mul) (op := fun _ b a => b * a) rfl b a⟩

/-- Settles O29: by their stack picture, and bit by bit as the operations on words are. -/
theorem logicIsBitwise : Obligations.LogicIsBitwise := fun _ b a =>
  ⟨b &&& a, b ||| a, b ^^^ a, turns_binary (base := .and) (op := fun _ b a => b &&& a) rfl b a,
    turns_binary (base := .ora) (op := fun _ b a => b ||| a) rfl b a,
    turns_binary (base := .eor) (op := fun _ b a => b ^^^ a) rfl b a,
    fun _ => ⟨BitVec.getLsbD_and, BitVec.getLsbD_or, BitVec.getLsbD_xor⟩⟩

/-! ## DIV -/

theorem turns_div {m : Mode} (b : BitVec m.width.bits) {a : BitVec m.width.bits} (ha : a ≠ 0) :
    Turns (.form .div m) m (valueBytes _ b ++ valueBytes _ a) (valueBytes _ (b / a)) := by
  simpa using turns_of_toPop (base := .div) [valueBytes _ a, valueBytes _ b] [valueBytes _ (b / a)] fun _ _ h =>
    h.pop fun _ h => h.pop fun _ h => by
      rw [if_neg ha]
      exact h.toPush.push fun _ h => h.finish

/-- Settles O27: by its stack picture, the quotient of the words being that of their values. -/
theorem divTruncates : Obligations.DivTruncates := by
  intro m b a ha
  have hdiv : BitVec.ofNat m.width.bits (b.toNat / a.toNat) = b / a := by
    rw [← BitVec.toNat_udiv, BitVec.ofNat_toNat, BitVec.setWidth_eq]
  rw [hdiv]
  exact turns_div b fun hzero => ha (by rw [hzero]; rfl)

/-- Keep mode leaves no more of the operands than all of them (R55). -/
theorem length_kept_le (m : Mode) (operands : List Byte) : (kept m operands).length ≤ operands.length := by
  rw [kept]
  split
  · exact Nat.le_refl _
  · exact Nat.zero_le _

/-- Settles O28: the divisor is tested after both pops, and the fault then writes only the error byte (D7). -/
theorem divByZeroFaults : Obligations.DivByZeroFaults := by
  intro m s l b hitems hptr
  have hitems' := hitems.trans (List.append_assoc _ _ _)
  obtain ⟨st, e, hp⟩ := selectKeep_items hitems
  obtain ⟨st1, hp1, e1⟩ := hp.pop s _ 0
  obtain ⟨st2, hp2, e2⟩ := hp1.pop s _ b
  have hst2 : st2.items = l ++ kept m (valueBytes _ b ++ valueBytes m.width 0) := (hp2.holdsOver_kept hitems').1
  have hle : st2.ptr.toNat ≤ 254 := by
    have hlen := BitVec.le_def.1 hptr
    rw [← length_items, hitems', List.length_append] at hlen
    rw [← length_items, hst2, List.length_append]
    exact (Nat.add_le_add_left (length_kept_le m _) _).trans hlen
  refine ⟨st2.poke 254 0x03, ?_, err_poke_err _ _, (items_poke_err hle _).trans hst2, fun k h254 h255 => ?_⟩
  · rw [exec_form]
    simp only [baseOp, divOp, e, e1, e2, if_true, raiseFault_reportDivideByZero]
    rw [raiseFault, stack_setStack_self, setStack_setStack]
    rfl
  · rw [get_poke, if_neg h254, hp2.page k h255]

/-! ## SFT -/

/-- The shift by the two nibbles of the control byte is a division and a product of the value (R347). -/
theorem shiftValue_eq {n : Nat} (v : BitVec n) (c : Byte) :
    shiftValue v c = BitVec.ofNat n (v.toNat / 2 ^ (c.toNat % 16) * 2 ^ (c.toNat / 16)) := by
  apply BitVec.eq_of_toNat_eq
  rw [shiftValue, toNat_shiftRightAmount, toNat_shiftLeftAmount, BitVec.toNat_shiftLeft, BitVec.toNat_ushiftRight,
    Nat.shiftRight_eq_div_pow, Nat.shiftLeft_eq, BitVec.toNat_ofNat]

/-- Settles O30: by its stack picture, the control byte on top. -/
theorem sftShiftsRightThenLeft : Obligations.SftShiftsRightThenLeft := by
  intro m v c
  rw [← shiftValue_eq]
  simpa [valueBytes] using turns_of_toPop (base := .sft) [valueBytes .byte c, valueBytes _ v]
    [valueBytes _ (shiftValue v c)] fun _ _ h =>
    h.pop fun _ h => h.pop fun _ h => h.toPush.push fun _ h => h.finish

end Sys2Proof.Machine
end

section
/-!
PROOFS. Output to the ports with an action (spec/46_device_bus.md): what the trigger of each system and console port
does, how DEO reaches it with its bytes stored and its operands popped, and what it leaves alone whatever it triggers.
Then the fields of the datetime device. Where a proof ends in a split on the return bit, the two sides are one state
written in two orders of its updates, and the bit only says which of the two stacks is the source.
-/

namespace Sys2Proof.Machine

/-! ## The triggers of the system and console ports -/

/-- The state after the debug view where byte `b` asks for it (R385). -/
def State.showStacksIf (s : State) (b : Byte) : State :=
  if b = 0 then s else s.call (.debugView s.wst.page s.rst.page)

theorem port_showStacksIf (s : State) (b : Byte) : (s.showStacksIf b).port = s.port := by
  rw [State.showStacksIf]
  split <;> rfl

/-- The halt code that byte `b` of the system state port gives (R386). -/
def haltCode (b : Byte) : Option Byte := if b = 0 then none else some b

theorem trigger_debug {s : State} {b : Byte} (h : s.port.get 0x0E = b) (next : Option Byte → State → Result) :
    trigger 0x0E s next = next none (s.showStacksIf b) := by
  have hsystem : trigger 0x0E s next = systemTrigger 0xE s next := rfl
  rw [hsystem, systemTrigger, if_pos rfl, State.showStacksIf, h]
  split <;> rfl

theorem trigger_state {s : State} {b : Byte} (h : s.port.get 0x0F = b) (next : Option Byte → State → Result) :
    trigger 0x0F s next = next (haltCode b) s := by
  have hsystem : trigger 0x0F s next = systemTrigger 0xF s next := rfl
  rw [hsystem, systemTrigger, if_neg (by decide), if_pos rfl, haltCode, h]
  split <;> rfl

/-- Where byte `b` decides on Halt, so does the event it ends the instruction with (R169, R386). -/
theorem finishHalt_haltCode (b : Byte) (s : State) :
    finishHalt (haltCode b) s = .next { closeKeep s with event := if b = 0 then s.event else some (.halt b) } := by
  rw [haltCode]
  split <;> rfl

theorem trigger_stdout {s : State} {b : Byte} (h : s.port.get 0x18 = b) (next : Option Byte → State → Result) :
    trigger 0x18 s next = next none (s.call (.stdout b)) := by
  subst h
  rfl

theorem trigger_stderr {s : State} {b : Byte} (h : s.port.get 0x19 = b) (next : Option Byte → State → Result) :
    trigger 0x19 s next = next none (s.call (.stderr b)) := by
  subst h
  rfl

theorem trigger_file_ok {i : FileId} {index : BitVec 4} {s t : State} (h : fileTrigger i index s = .ok t)
    (next : Option Byte → State → Result) : trigger (i.base + index.setWidth 8) s next = next none t := by
  rw [trigger_file, fileSlotTrigger, h]

theorem trigger_file_error {i : FileId} {index : BitVec 4} {s : State} {x : Refusal}
    (h : fileTrigger i index s = .error x) (next : Option Byte → State → Result) :
    trigger (i.base + index.setWidth 8) s next = .refused x := by
  rw [trigger_file, fileSlotTrigger, h]

/-! ## DEO stores its bytes, then triggers -/

/-- A byte-wide DEO pops its operands, stores its byte and runs the trigger of its port (R311, R382). -/
theorem exec_deo_byte_trigger {k r : Bool} {s : State} {l : List Byte} {p b : Byte}
    (h : (s.stack (srcOf ⟨k, r, false⟩)).items = l ++ [b, p]) :
    ∃ st : Stack, st.HoldsOver (l ++ kept ⟨k, r, false⟩ [b, p]) (s.stack (srcOf ⟨k, r, false⟩)) ∧
      exec (.form .deo ⟨k, r, false⟩) s =
        trigger p { s.setStack (srcOf ⟨k, r, false⟩) st with port := s.port.set p b } finishHalt := by
  obtain ⟨st, hst, e⟩ := exec_deo_byte h
  exact ⟨st, hst, by rw [e, devOut, storePort, port_setStack]⟩

/-- DEO2 pops its operands, stores both bytes and runs the trigger of its port, then that of the next port unless the
first one halted (R311, R383). -/
theorem exec_deo_short_trigger {k r : Bool} {s : State} {l : List Byte} {p h b : Byte}
    (hs : (s.stack (srcOf ⟨k, r, true⟩)).items = l ++ [h, b, p]) :
    ∃ st : Stack, st.HoldsOver (l ++ kept ⟨k, r, true⟩ [h, b, p]) (s.stack (srcOf ⟨k, r, true⟩)) ∧
      exec (.form .deo ⟨k, r, true⟩) s =
        trigger p { s.setStack (srcOf ⟨k, r, true⟩) st with port := (s.port.set p h).set (p + 1) b }
          fun halt t => halt.elim (trigger (p + 1) t finishHalt) fun c => finishHalt (some c) t := by
  obtain ⟨st, hst, e⟩ := exec_deo_short hs
  refine ⟨st, hst, ?_⟩
  rw [e, devOut16, hiByte_joinBytes, loByte_joinBytes, storePort, storePort, port_setStack]
  congr
  funext halt t
  cases halt <;> rfl

/-- A DEO ends by closing the keep pointers, with Halt where there is a halt code (R166, R169). -/
theorem finishHalt_eq (halt : Option Byte) (t : State) :
    finishHalt halt t = .next { closeKeep t with event := halt.elim t.event fun c => some (.halt c) } := by
  cases halt <;> rfl

/-! ## The system ports -/

/-- Settles O41: by the trigger of each port, with the byte stored before it runs. -/
theorem deoToSystemPortsHaltsOrShowsStacks : Obligations.DeoToSystemPortsHaltsOrShowsStacks := by
  refine fun k r s l b => ⟨fun h => ?state, fun h => ?debug⟩
  case state =>
    obtain ⟨st, hst, e⟩ := exec_deo_byte_trigger h
    refine ⟨st, ?_, hst⟩
    rw [e, trigger_state (Page.get_set_self _ _ _), finishHalt_haltCode]
    cases r <;> rfl
  case debug =>
    obtain ⟨st, hst, e⟩ := exec_deo_byte_trigger h
    refine ⟨st, hst, ?_⟩
    rw [e, trigger_debug (Page.get_set_self _ _ _), State.showStacksIf]
    split <;> rfl

/-- The first of two bytes stored in a row is read back (R383). -/
theorem Page.get_set_next (port : Page) (p h b : Byte) : ((port.set p h).set (p + 1) b).get p = h :=
  (Page.get_set_of_ne _ _ (ne_add_one p)).trans (Page.get_set_self _ _ _)

/-- Settles O42: by the trigger of each port; that of port 0x10 does nothing. -/
theorem deoShortStoresBothBytesThenTriggersInOrder : Obligations.DeoShortStoresBothBytesThenTriggersInOrder := by
  intro k r s l h b p hitems
  obtain ⟨st, hst, e⟩ := exec_deo_short_trigger hitems
  refine ⟨⟨st, hst, ?any⟩, ?state, ?debug⟩
  case any =>
    rw [e]
    congr
    funext first t
    cases first with
    | some code => rfl
    | none =>
      show trigger _ _ _ = trigger _ _ _
      congr
      funext second u
      cases second <;> rfl
  case state =>
    rintro rfl
    refine ⟨st, ?_, hst⟩
    rw [e, trigger_state (Page.get_set_next _ _ _ _), haltCode]
    split
    · refine (trigger_of_quiet (p := 0x10) rfl _ _).trans ?_
      cases r <;> rfl
    · cases r <;> rfl
  case debug =>
    rintro rfl
    refine ⟨st, hst, ?_⟩
    rw [e, trigger_debug (Page.get_set_next _ _ _ _)]
    refine (trigger_state (b := b) ?_ _).trans ?_
    · rw [port_showStacksIf]
      exact Page.get_set_self _ _ _
    · rw [finishHalt_haltCode, State.showStacksIf]
      cases r <;> split <;> rfl

/-! ## The console ports -/

theorem stdout_call_stdout (s : State) (b : Byte) : (s.call (.stdout b)).stdout = s.stdout ++ [b] := by
  simp [State.stdout, State.call, HostCall.onStdout]

theorem stderr_call_stderr (s : State) (b : Byte) : (s.call (.stderr b)).stderr = s.stderr ++ [b] := by
  simp [State.stderr, State.call, HostCall.onStderr]

/-- Settles O43: by the trigger of each port, with the bytes stored before it runs. -/
theorem deoToConsoleWritesItsByte : Obligations.DeoToConsoleWritesItsByte := by
  refine ⟨fun k r s l b => ⟨fun h => ⟨?stdout, stdout_call_stdout s b⟩, fun h => ⟨?stderr, stderr_call_stderr s b⟩⟩,
    fun k r s l h b hitems => ?short⟩
  case stdout =>
    obtain ⟨st, hst, e⟩ := exec_deo_byte_trigger h
    refine ⟨st, ?_, hst⟩
    rw [e, trigger_stdout (Page.get_set_self _ _ _)]
    cases r <;> rfl
  case stderr =>
    obtain ⟨st, hst, e⟩ := exec_deo_byte_trigger h
    refine ⟨st, ?_, hst⟩
    rw [e, trigger_stderr (Page.get_set_self _ _ _)]
    cases r <;> rfl
  case short =>
    obtain ⟨st, hst, e⟩ := exec_deo_short_trigger hitems
    refine ⟨st, ?_, hst⟩
    rw [e, trigger_stdout (Page.get_set_next _ _ _ _)]
    refine (trigger_stderr (b := b) (Page.get_set_self _ _ _) _).trans ?_
    cases r <;> rfl

/-! ## The file slots -/

theorem fileBase_next {index : BitVec 4} (h : index ≠ 0xF) (i : FileId) :
    i.base + index.setWidth 8 + 1 = i.base + (index + 1).setWidth 8 := by
  cases i <;> revert index <;> decide

/-- Settles O45: the trigger of a port of a file slot is that of its device, and never halts. -/
theorem deoToFileSlotRunsItsTriggers : Obligations.DeoToFileSlotRunsItsTriggers := by
  refine ⟨fun k r i s l index b h => ?_, fun k r i s l index h b hindex hitems => ?_⟩
  · obtain ⟨st, hst, e⟩ := exec_deo_byte_trigger h
    refine ⟨st, hst, ?_⟩
    rw [e]
    split
    · next t ht =>
      rw [trigger_file_ok ht]
      rfl
    · next x hx => rw [trigger_file_error hx]
  · obtain ⟨st, hst, e⟩ := exec_deo_short_trigger hitems
    refine ⟨st, hst, ?_⟩
    rw [e]
    split
    · next t ht =>
      rw [trigger_file_ok ht, fileBase_next hindex]
      split
      · next u hu => exact trigger_file_ok hu _
      · next x hx => exact trigger_file_error hx _
    · next x hx => rw [trigger_file_error hx]

/-! ## What DEO leaves alone -/

/-- A DEO that answers a next state has popped its operands and then changed only what the device bus may in the slots
of its ports, and the event (R311, R384, R400). -/
theorem exec_deo_next {m : Mode} {s t : State} {l : List Byte} {p : Byte} {v : BitVec m.width.bits}
    (h : (s.stack (srcOf m)).items = l ++ (valueBytes _ v ++ [p])) (ht : exec (.form .deo m) s = .next t) :
    ∃ (st : Stack) (slots : List (BitVec 4)) (u : State) (event : Option Event),
      st.HoldsOver (l ++ kept m (valueBytes _ v ++ [p])) (s.stack (srcOf m)) ∧
      BusFrame slots (s.setStack (srcOf m) st) u ∧ t = { closeKeep u with event := event } ∧
      ∀ x, x ≠ slotOf p → (m.short = true → x ≠ slotOf (p + 1)) → x ∉ slots := by
  obtain ⟨st, hst, e⟩ := exec_deo h
  rcases devOutW_cases p m.width v (s.setStack (srcOf m) st) with ⟨r, hr⟩ | ⟨halt, u, hu, hframe, -⟩
  · rw [e, hr] at ht
    cases ht
  · rw [e, hu, finishHalt_eq] at ht
    refine ⟨st, _, u, _, hst, hframe, (Host.Outcome.next.inj ht).symm, fun x hx hnext => ?_⟩
    obtain ⟨k, r, _ | _⟩ := m
    · show x ∉ [slotOf p]
      simpa using hx
    · show x ∉ [slotOf p, slotOf (p + 1)]
      simpa using And.intro hx (hnext rfl)

/-- Settles O44: by the frame of the device bus, started from the state with the operands popped. -/
theorem deoStaysWithinItsSlots : Obligations.DeoStaysWithinItsSlots := by
  intro m s t l p v h ht
  obtain ⟨st, slots, u, event, hst, hframe, rfl, hslots⟩ := exec_deo_next (h.trans (List.append_assoc _ _ _)) ht
  have hstack (S : StackId) : State.stack { closeKeep u with event := event } S =
      { (s.setStack (srcOf m) st).stack S with keep := none } := by
    rw [← stack_congr hframe.wst hframe.rst, ← stack_closeKeep]
    exact stack_congr rfl rfl S
  refine ⟨fun q hq hnext => ?port, fun hp hnext => ?fd0, fun hp hnext => ?fd1, ?src, ?dst, ?pc, ?params, ?timeSource⟩
  case port => simpa using hframe.port q (hslots _ hq hnext)
  case fd0 => simpa using hframe.fd0 (hslots _ hp.symm fun hm => (hnext hm).symm)
  case fd1 => simpa using hframe.fd1 (hslots _ hp.symm fun hm => (hnext hm).symm)
  case src =>
    rw [hstack, stack_setStack_self]
    exact hst
  case dst => rw [hstack, stack_dst_setStack_src]
  case pc => simpa using hframe.pc
  case params => simpa using hframe.params
  case timeSource => simpa using hframe.timeSource

/-! ## The datetime fields -/

/-- The weekdays in the order of `WEEKDAY_MAP`, Monday first (R393, D17). -/
def weekdays : List Weekday := [.monday, .tuesday, .wednesday, .thursday, .friday, .saturday, .sunday]

theorem weekdayIndex_weekdays (day : Fin 7) : weekdayIndex weekdays[day] = day := by
  revert day
  decide

theorem weekdayIndex_injective : Function.Injective weekdayIndex :=
  Function.LeftInverse.injective (g := fun day => weekdays[day]) fun day => by cases day <;> rfl

/-- No two weekdays have one byte (R393, D17). -/
theorem weekday_eq_of_clockField {p : Params} (hp : p.wellFormed = true) {q r : ClockReading}
    (h : clockField p q 0x7 = clockField p r 0x7) : q.weekday = r.weekday := by
  have hnodup : p.weekdayMap.toList.Nodup := of_decide_eq_true hp
  apply weekdayIndex_injective
  apply Fin.ext
  have hbytes : p.weekdayMap.toList[(weekdayIndex q.weekday).val]'(by simp) =
      p.weekdayMap.toList[(weekdayIndex r.weekday).val]'(by simp) := by
    rw [Vector.getElem_toList, Vector.getElem_toList]
    exact h
  exact (hnodup.getElem_inj_iff).1 hbytes

theorem hiByte_mul_add_loByte (v : Word) : (hiByte v).toNat * 256 + (loByte v).toNat = v.toNat := by
  rw [← joinBytes_toNat, joinBytes_hi_lo]

/-- A number below 256 is the value of its byte. -/
theorem toNat_byte_of_lt {n : Nat} (h : n < 256) : (BitVec.ofNat 8 n).toNat = n := by
  rw [BitVec.toNat_ofNat, Nat.mod_eq_of_lt h]

/-- The bytes of the epoch at the ports 0xC0 to 0xCA (R394, GK3). -/
theorem clockField_epochReading (p : Params) {index : BitVec 4} (h : index ≤ 0xA) :
    [(0x07 : Byte), 0xB2, 0, 1, 0, 0, 0, p.weekdayMap[3], 0, BitVec.ofNat 8 p.ydayBase.val, 0][index.toNat]? =
      some (clockField p epochReading index) := by
  have hyday : hiByte (BitVec.ofNat 16 (0 + p.ydayBase.val)) = 0 ∧
      loByte (BitVec.ofNat 16 (0 + p.ydayBase.val)) = BitVec.ofNat 8 p.ydayBase.val := by
    generalize p.ydayBase = base
    revert base
    decide
  obtain ⟨⟨n, hn⟩⟩ := index
  have hle : n ≤ 10 := h
  match n, hle with
  | 8, _ => exact congrArg some hyday.1.symm
  | 9, _ => exact congrArg some hyday.2.symm
  | 0, _ | 1, _ | 2, _ | 3, _ | 4, _ | 5, _ | 6, _ | 7, _ | 10, _ => rfl

/-- Settles O39: each field of a reading is a number in the range of its type, and a failed query reads as the epoch. -/
theorem clockFieldsAreInRangeAndFailuresReadEpoch : Obligations.ClockFieldsAreInRangeAndFailuresReadEpoch := by
  refine ⟨fun p r => ?fields, fun source monotonic hsource => ?failure, fun s index hle hsource ha => ?bytes⟩
  case fields =>
    have hmonth : (clockField p r 0x2).toNat = r.month.val := toNat_byte_of_lt (by omega)
    have hday : (clockField p r 0x3).toNat = r.dayIndex.val + 1 := toNat_byte_of_lt (by omega)
    have hhour : (clockField p r 0x4).toNat = r.hour.val := toNat_byte_of_lt (by omega)
    have hminute : (clockField p r 0x5).toNat = r.minute.val := toNat_byte_of_lt (by omega)
    have hsecond : (clockField p r 0x6).toNat = r.second.val := toNat_byte_of_lt (by omega)
    refine ⟨hiByte_mul_add_loByte r.year, hmonth, by omega, hday, by omega, by omega, hhour, by omega, hminute,
      by omega, hsecond, by omega, ?weekday, ?yday, rfl, fun hp q => weekday_eq_of_clockField hp⟩
    case weekday =>
      intro day hname
      obtain rfl : weekdayIndex r.weekday = day := hname ▸ weekdayIndex_weekdays day
      rfl
    case yday =>
      refine (hiByte_mul_add_loByte _).trans ?_
      rw [BitVec.toNat_ofNat]
      omega
  case failure =>
    rw [readingOf_failure hsource]
    exact ⟨epochReading, rfl, rfl, rfl, rfl, rfl, rfl, rfl, rfl, rfl, rfl⟩
  case bytes =>
    rw [devIn_clock, hostClock_of_le hle ha, readingOf_failure hsource]
    exact clockField_epochReading s.params hle

end Sys2Proof.Machine
end

section
/-!
PROOFS. The host file interface (R450 to R458): what each call answers in the physical and in the virtual
implementation, and what a write leaves in the virtual file system.
-/

namespace Sys2Proof.Machine

/-! ## The answers of the host -/

theorem hostStat_of_physical {s : State} (h : s.params.fileIface = .physical) (path : Bytes) :
    (hostStat path s).1 = if rejectsPath s.params path then none
      else answer s.outside.stats Config.statAnswer s.outside.draws := by
  have hface : (takeStat (s.call (.fileStat path))).2.params.fileIface = .physical := h
  simp only [hostStat, lawfulStat, hface]
  rfl

theorem hostRead_of_physical {s : State} (h : s.params.fileIface = .physical) (path : Bytes) :
    (hostRead path s).1 = if rejectsPath s.params path then .error
      else answer s.outside.reads Config.readAnswer s.outside.draws := by
  have hface : (takeRead (s.call (.fileRead path))).2.params.fileIface = .physical := h
  simp only [hostRead, lawfulRead, hface]
  rfl

/-- In the virtual file system a path has a stat line exactly where it exists (R451, R458). -/
theorem isSome_hostStat_of_virtual {s : State} (h : s.params.fileIface = .virtual) {path : Bytes}
    (hpath : path ≠ currentDirectory) :
    (hostStat path s).1.isSome = (contentsOf s.outside.files path).isSome := by
  have hface : (takeStat (s.call (.fileStat path))).2.params.fileIface = .virtual := h
  have hfiles : (takeStat (s.call (.fileStat path))).2.outside.files = s.outside.files := rfl
  simp only [hostStat, lawfulStat, hface, hfiles, if_neg hpath]
  cases contentsOf s.outside.files path <;> rfl

/-- In the virtual file system a path reads as its contents (R455, R458). -/
theorem hostRead_of_virtual {s : State} (h : s.params.fileIface = .virtual) {path : Bytes}
    (hpath : path ≠ currentDirectory) :
    (hostRead path s).1 = (contentsOf s.outside.files path).elim .error .file := by
  have hface : (takeRead (s.call (.fileRead path))).2.params.fileIface = .virtual := h
  have hfiles : (takeRead (s.call (.fileRead path))).2.outside.files = s.outside.files := rfl
  simp only [hostRead, lawfulRead, hface, hfiles, if_neg hpath]
  cases contentsOf s.outside.files path <;> rfl

theorem length_listingLines (draws : Nat) (files : List (Bytes × Bytes)) (given : List Bytes) :
    (listingLines draws files given).length = files.length := by
  induction files generalizing given with
  | nil => rfl
  | cons f rest ih => simp only [listingLines, List.length_cons, ih]

/-- The virtual "./" reads as one line for each path (R455). -/
theorem hostRead_currentDirectory {s : State} (h : s.params.fileIface = .virtual) :
    ∃ lines, (hostRead currentDirectory s).1 = .stats lines ∧ lines.length = s.outside.files.length := by
  have hface : (takeRead (s.call (.fileRead currentDirectory))).2.params.fileIface = .virtual := h
  simp only [hostRead, lawfulRead, hface, if_true]
  split <;> exact ⟨_, rfl, length_listingLines _ _ _⟩

/-- The answer to `write` is the host's next one under the laws of the interface (R454). -/
theorem hostWrite_fst (path data : Bytes) (s : State) : (hostWrite path data s).1 =
    lawfulWrite s path data (answer s.outside.writes Config.writeAnswer s.outside.draws) := by
  unfold hostWrite
  simp only
  split <;> rfl

theorem hostWrite_of_physical {s : State} (h : s.params.fileIface = .physical) (path data : Bytes) :
    (hostWrite path data s).1 = if rejectsPath s.params path then none
      else (answer s.outside.writes Config.writeAnswer s.outside.draws).map (min · data.length) := by
  simp only [hostWrite_fst, lawfulWrite, h]

/-- A virtual write to a path that does not exist is an error (R454, R458). -/
theorem hostWrite_of_absent {s : State} (h : s.params.fileIface = .virtual) {path : Bytes}
    (hpath : contentsOf s.outside.files path = none) (data : Bytes) : (hostWrite path data s).1 = none := by
  simp only [hostWrite_fst, lawfulWrite, h, hpath]

/-! ## The virtual file system after a write -/

theorem files_hostWrite {s : State} (h : s.params.fileIface = .virtual) (path data : Bytes) :
    (hostWrite path data s).2.outside.files =
      appendToFile s.outside.files path data (hostWrite path data s).1 := by
  have hparams : (takeWrite (s.call (.fileWrite path data))).2.params.fileIface = .virtual := h
  simp only [hostWrite, hparams]
  rfl

theorem contentsOf_appendToFile_self {files : List (Bytes × Bytes)} {path old : Bytes}
    (h : contentsOf files path = some old) (data : Bytes) (count : Nat) :
    contentsOf (appendToFile files path data (some count)) path = some (old ++ data.take count) := by
  simp only [appendToFile, h, contentsOf_putFile_self]

theorem contentsOf_appendToFile_of_ne {path other : Bytes} (h : other ≠ path) (files : List (Bytes × Bytes))
    (data : Bytes) (count : Option Nat) :
    contentsOf (appendToFile files path data count) other = contentsOf files other := by
  unfold appendToFile
  split
  · exact contentsOf_putFile_of_ne _ _ h
  · rfl

theorem contentsOf_hostCreate {s : State} (h : s.params.fileIface = .virtual) (path : Bytes) :
    contentsOf (hostCreate path s).outside.files path = some [] := by
  simp only [hostCreate, h]
  exact contentsOf_putFile_self _ _ _

theorem contentsOf_hostDelete {s : State} (h : s.params.fileIface = .virtual) (path : Bytes) :
    contentsOf (hostDelete path s).outside.files path = none := by
  simp only [hostDelete, h]
  exact contentsOf_removeFile_self _ _

/-- Settles O54: by the answer of each call in each implementation, which the parameters and the files decide. -/
theorem fileInterfaceKeepsItsLaws : Obligations.FileInterfaceKeepsItsLaws := by
  intro s path data
  refine ⟨fun count hcount => ?bounded, fun hv => ⟨fun habsent => ?absent, fun old hold => ?present,
    fun other hne => ?others, contentsOf_hostCreate hv path, contentsOf_hostDelete hv path,
    hostRead_currentDirectory hv⟩,
    fun hp => ⟨hostStat_of_physical hp path, hostRead_of_physical hp path, hostWrite_of_physical hp path data⟩⟩
  case bounded => simpa only [hcount, Option.getD_some] using count_hostWrite_le path data s
  case absent =>
    refine ⟨hostWrite_of_absent hv habsent data, fun hpath => ⟨?_, ?_⟩⟩
    · rw [hostRead_of_virtual hv hpath, habsent, Option.elim_none]
    · rw [← Option.not_isSome_iff_eq_none, isSome_hostStat_of_virtual hv hpath, habsent]
      exact Bool.false_ne_true
  case present =>
    refine ⟨fun hpath => ⟨?_, ?_⟩, fun count hcount => ?_⟩
    · rw [hostRead_of_virtual hv hpath, hold, Option.elim_some]
    · rw [isSome_hostStat_of_virtual hv hpath, hold, Option.isSome_some]
    · rw [files_hostWrite hv, hcount, contentsOf_appendToFile_self hold]
  case others => rw [files_hostWrite hv, contentsOf_appendToFile_of_ne hne]

end Sys2Proof.Machine
end

section
/-!
PROOFS. The triggers of a file device (R432 to R447): what each of them runs in each state of the device, and the state
in which it leaves the device.
-/

namespace Sys2Proof.Machine

/-! ## What a trigger runs in each state of the device -/

theorem fileTrigger_read (i : FileId) (s : State) : fileTrigger i 0xC s = fileRead i s := rfl

theorem fileTrigger_write (i : FileId) (s : State) : fileTrigger i 0xE s = fileWrite i s := rfl

section Triggers

variable {i : FileId} {s : State} {path : Bytes}

theorem fileTrigger_stat (hpath : filePath i s = some path) : fileTrigger i 0x4 s = .ok (statPath i path s) :=
  withPath_of_some hpath _

theorem fileTrigger_delete (hpath : filePath i s = some path) : fileTrigger i 0x6 s = .ok (hostDelete path s) :=
  withPath_of_some hpath _

theorem fileTrigger_read_of_idle (h : s.fd i = .idle) (hpath : filePath i s = some path) :
    fileTrigger i 0xC s = .ok (readOpen i path s) := by
  rw [fileTrigger_read, fileRead, h]
  exact withPath_of_some hpath _

theorem fileTrigger_read_of_readingFile {bytes : Bytes} {cursor : Nat} (h : s.fd i = .readingFile bytes cursor) :
    fileTrigger i 0xC s = .ok (readFileChunk i bytes cursor s) := by
  rw [fileTrigger_read, fileRead, h]

theorem fileTrigger_read_of_readingStats {queue : List Bytes} (h : s.fd i = .readingStats queue) :
    fileTrigger i 0xC s = .ok (readStatsChunk i queue s) := by
  rw [fileTrigger_read, fileRead, h]

theorem fileTrigger_read_of_writing (h : s.fd i = .writing path) : fileTrigger i 0xC s = crossTrigger i s := by
  rw [fileTrigger_read, fileRead, h]

theorem fileTrigger_write_of_idle (h : s.fd i = .idle) (hpath : filePath i s = some path) :
    fileTrigger i 0xE s = .ok (writeOpen i path s) := by
  rw [fileTrigger_write, fileWrite, h]
  exact withPath_of_some hpath _

theorem fileTrigger_write_of_writing (h : s.fd i = .writing path) :
    fileTrigger i 0xE s = .ok (writeChunk i path s) := by
  rw [fileTrigger_write, fileWrite, h]

theorem fileTrigger_write_of_readingFile {bytes : Bytes} {cursor : Nat} (h : s.fd i = .readingFile bytes cursor) :
    fileTrigger i 0xE s = crossTrigger i s := by
  rw [fileTrigger_write, fileWrite, h]

theorem fileTrigger_write_of_readingStats {queue : List Bytes} (h : s.fd i = .readingStats queue) :
    fileTrigger i 0xE s = crossTrigger i s := by
  rw [fileTrigger_write, fileWrite, h]

end Triggers

/-! ## Crossed triggers -/

/-- What a crossed trigger does by the parameter (R444, D24). -/
theorem crossTrigger_of_param (i : FileId) (s : State) :
    (s.params.crossTrigger = .ignore → crossTrigger i s = .ok s) ∧
    (s.params.crossTrigger = .zeroResult → crossTrigger i s = .ok (setResult i 0 s)) ∧
    (s.params.crossTrigger = .refuse → crossTrigger i s = .error .crossTrigger) :=
  ⟨fun h => by rw [crossTrigger, h], fun h => by rw [crossTrigger, h], fun h => by rw [crossTrigger, h]⟩

/-- Settles O53: each of the crossed triggers does what the parameter says. -/
theorem crossTriggerFollowsParameter : Obligations.CrossTriggerFollowsParameter := by
  intro i s index hcrossed
  have hcross : fileTrigger i index s = crossTrigger i s := by
    obtain ⟨rfl, path, hfd⟩ | ⟨rfl, ⟨bytes, cursor, hfd⟩ | ⟨queue, hfd⟩⟩ := hcrossed
    · exact fileTrigger_read_of_writing hfd
    · exact fileTrigger_write_of_readingFile hfd
    · exact fileTrigger_write_of_readingStats hfd
  rw [hcross]
  exact crossTrigger_of_param i s

/-! ## The state a trigger leaves the device in -/

@[simp] theorem fd_setResult (s : State) (i j : FileId) (n : Nat) : (setResult i n s).fd j = s.fd j := by
  cases j <;> rfl

@[simp] theorem fd_copyToTarget (s : State) (i j : FileId) (bytes : Bytes) :
    (copyToTarget i bytes s).fd j = s.fd j := by cases j <;> rfl

@[simp] theorem fd_with_outside (s : State) (i : FileId) (o : Outside) :
    State.fd { s with outside := o } i = s.fd i := by cases i <;> rfl

@[simp] theorem fd_hostStat (s : State) (i : FileId) (path : Bytes) : (hostStat path s).2.fd i = s.fd i := by
  obtain ⟨o, ho, -⟩ := hostStat_snd path s
  rw [ho, fd_with_outside]

@[simp] theorem fd_hostDelete (s : State) (i : FileId) (path : Bytes) : (hostDelete path s).fd i = s.fd i := by
  obtain ⟨o, ho, -⟩ := hostDelete_eq path s
  rw [ho, fd_with_outside]

@[simp] theorem fd_statPath (s : State) (i : FileId) (path : Bytes) : (statPath i path s).fd i = s.fd i := by
  have hfd := fd_hostStat s i path
  unfold statPath
  split
  · next line t hstat =>
    rw [hstat] at hfd
    split <;> simpa using hfd
  · next t hstat =>
    rw [hstat] at hfd
    simpa using hfd

@[simp] theorem fd_writeChunk (s : State) (i : FileId) (path : Bytes) : (writeChunk i path s).fd i = s.fd i := by
  rw [(writeChunk_eq i path s).1]
  cases i <;> rfl

theorem fd_crossTrigger {i : FileId} {s t : State} (h : crossTrigger i s = .ok t) : t.fd i = s.fd i := by
  unfold crossTrigger at h
  split at h
  · exact Except.ok.inj h ▸ rfl
  · exact Except.ok.inj h ▸ fd_setResult s i i 0
  · cases h

/-- A trigger other than Change-Name that finds a device not Idle leaves it so: Stat, Delete, Write and a crossed
trigger keep its state, and Read leaves it in a Reading state (R439). -/
theorem fileTrigger_keeps_active {i : FileId} {index : BitVec 4} {s t : State} (hindex : index ≠ 0x8)
    (h : fileTrigger i index s = .ok t) (hfd : s.fd i ≠ .idle) : t.fd i ≠ .idle := by
  unfold fileTrigger at h
  split at h
  · obtain ⟨path, -, rfl⟩ := withPath_ok h
    rwa [fd_statPath]
  · obtain ⟨path, -, rfl⟩ := withPath_ok h
    rwa [fd_hostDelete]
  · next hname => exact absurd (BitVec.eq_of_toNat_eq hname) hindex
  · unfold fileRead at h
    split at h
    · contradiction
    · obtain rfl := Except.ok.inj h
      simp [readFileChunk]
    · obtain rfl := Except.ok.inj h
      simp [readStatsChunk]
    · rwa [fd_crossTrigger h]
  · unfold fileWrite at h
    split at h
    · contradiction
    · obtain rfl := Except.ok.inj h
      rwa [fd_writeChunk]
    · rwa [fd_crossTrigger h]
    · rwa [fd_crossTrigger h]
  · obtain rfl := Except.ok.inj h
    exact hfd

/-- Settles O47: DEO2 runs Change-Name with both bytes stored, and the port of the low byte has no trigger. -/
theorem onlyChangeNameResetsToIdle : Obligations.OnlyChangeNameResetsToIdle := by
  refine ⟨fun k r i s l v hitems => ?_, fun i index s t => fileTrigger_keeps_active⟩
  obtain ⟨st, hst, e⟩ := exec_deo_short_trigger hitems
  refine ⟨st, ?_, hst⟩
  have hquiet : quietPort (i.base + 0x08 + 1) = true := by cases i <;> rfl
  rw [e]
  refine (trigger_file_ok (index := 0x8) rfl _).trans ((trigger_of_quiet hquiet _ _).trans ?_)
  cases i <;> cases r <;> rfl

end Sys2Proof.Machine
end

section
/-!
PROOFS. What the triggers of a file device transfer: a Read the next chunk of a file or of a listing (R440 to R443,
R459), Stat its line (R437), a Write the next chunk of memory (R445 to R447), and Delete nothing (R438).
-/

namespace Sys2Proof.Machine

/-! ## Reads in a Reading state -/

/-- What is left of a buffer after a chunk is what is left after as many bytes as were asked for (R442). -/
theorem drop_fileChunk (length : Nat) (bytes : Bytes) (cursor : Nat) :
    bytes.drop (cursor + (fileChunk length bytes cursor).length) = (bytes.drop cursor).drop length := by
  rw [length_fileChunk, ← List.drop_drop, List.drop_eq_drop_iff, List.length_drop, min_assoc, min_self]

/-- The chunks of successive reads are the bytes from the cursor on, as far as the lengths reach (R459). -/
theorem flatten_successiveChunks (bytes : Bytes) (lengths : List Nat) (cursor : Nat) :
    (successiveChunks bytes lengths cursor).flatten = (bytes.drop cursor).take lengths.sum := by
  induction lengths generalizing cursor with
  | nil => rfl
  | cons length rest ih =>
    rw [successiveChunks, List.flatten_cons, ih, drop_fileChunk, fileChunk, List.sum_cons, List.take_add]

/-- A read of a listing takes the longest run of whole entries that fits (R443, R459). -/
theorem exists_takeEntries_eq (budget : Nat) (queue : List Bytes) : ∃ n : Nat, n ≤ queue.length ∧
    takeEntries budget queue = ((queue.take n).flatten, queue.drop n) ∧
    (queue.take n).flatten.length ≤ budget ∧
    ∀ e, queue[n]? = some e → budget < (queue.take n).flatten.length + e.length := by
  induction queue generalizing budget with
  | nil => exact ⟨0, le_rfl, rfl, Nat.zero_le _, nofun⟩
  | cons entry rest ih =>
    by_cases hfits : entry.length ≤ budget
    · obtain ⟨n, hn, htake, hle, hnext⟩ := ih (budget - entry.length)
      refine ⟨n + 1, Nat.succ_le_succ hn, ?_, ?_, fun e he => ?_⟩
      · rw [takeEntries, if_pos hfits, htake]
        rfl
      · simp only [List.take_succ_cons, List.flatten_cons, List.length_append]
        omega
      · have := hnext e (by simpa using he)
        simp only [List.take_succ_cons, List.flatten_cons, List.length_append]
        omega
    · refine ⟨0, Nat.zero_le _, ?_, Nat.zero_le _, fun e he => ?_⟩
      · rw [takeEntries, if_neg hfits]
        rfl
      · obtain rfl := Option.some.inj he
        simpa using hfits

/-- Settles O49: by induction on the lengths asked for, and on the queue. -/
theorem readsPartitionFilesAndNeverSplitEntries : Obligations.ReadsPartitionFilesAndNeverSplitEntries := by
  refine ⟨fun bytes lengths cursor => ⟨flatten_successiveChunks bytes lengths cursor, fun hlen => ?_⟩,
    exists_takeEntries_eq⟩
  rw [flatten_successiveChunks, List.drop_zero, List.take_of_length_le hlen]

section Reads

variable {s : State} (hm : s.mem.wf) (i : FileId) (o : Outside)
include hm

/-- A Read of a file buffer is a transfer of its next chunk, from a state whose host side an earlier call may have
changed (R442). -/
theorem transferred_readFileChunk (bytes : Bytes) (cursor : Nat) :
    Transferred i (.readingFile bytes (cursor + min (fileLength i s) (bytes.length - cursor)))
      (fileChunk (fileLength i s) bytes cursor) o s (readFileChunk i bytes cursor { s with outside := o }) := by
  rw [← length_fileChunk]
  exact transferred_copy i _ _ o hm (List.length_take_le _ _)

/-- A Read of a listing is a transfer of the longest run of whole entries that fits (R443). -/
theorem transferred_readStatsChunk (queue : List Bytes) : ∃ n : Nat,
    Transferred i (.readingStats (queue.drop n)) (queue.take n).flatten o s
      (readStatsChunk i queue { s with outside := o }) ∧
    n ≤ queue.length ∧ (queue.take n).flatten.length ≤ fileLength i s ∧
    ∀ e, queue[n]? = some e → fileLength i s < (queue.take n).flatten.length + e.length := by
  obtain ⟨n, hn, htake, hle, hnext⟩ := exists_takeEntries_eq (fileLength i s) queue
  have hread := transferred_copy i (.readingStats (takeEntries (fileLength i s) queue).2) _ o hm
    (length_takeEntries_le (fileLength i s) queue)
  rw [htake] at hread
  refine ⟨n, ?_, hn, hle, hnext⟩
  have hlen : fileLength i { s with outside := o } = fileLength i s := rfl
  rw [readStatsChunk, hlen, htake]
  exact hread

end Reads

/-- Settles O48: a Read in a Reading state is the transfer of its next chunk. -/
theorem readCopiesNextChunk : Obligations.ReadCopiesNextChunk := by
  refine ⟨fun i s bytes cursor hm hfd _ => ?file, fun i s queue hm hfd => ?stats⟩
  case file => exact ⟨_, fileTrigger_read_of_readingFile hfd, transferred_readFileChunk hm i s.outside bytes cursor⟩
  case stats =>
    obtain ⟨n, hread, hn⟩ := transferred_readStatsChunk hm i s.outside queue
    exact ⟨n, _, fileTrigger_read_of_readingStats hfd, hread, hn⟩

/-! ## The answers of the host to Read and Stat -/

section Answers

variable {s : State} {path : Bytes} (i : FileId)

theorem readOpen_of_error (h : (hostRead path s).1 = .error) :
    readOpen i path s = setResult i 0 (hostRead path s).2 := by
  rw [readOpen, show hostRead path s = (.error, (hostRead path s).2) from Prod.ext h rfl]

theorem readOpen_of_file {bytes : Bytes} (h : (hostRead path s).1 = .file bytes) :
    readOpen i path s = readFileChunk i bytes 0 (hostRead path s).2 := by
  rw [readOpen, show hostRead path s = (.file bytes, (hostRead path s).2) from Prod.ext h rfl]

theorem readOpen_of_stats {lines : List Bytes} (h : (hostRead path s).1 = .stats lines) :
    readOpen i path s = readStatsChunk i lines (hostRead path s).2 := by
  rw [readOpen, show hostRead path s = (.stats lines, (hostRead path s).2) from Prod.ext h rfl]

theorem statPath_of_fits {line : Bytes} (h : (hostStat path s).1 = some line)
    (hfits : line.length ≤ fileLength i s) :
    statPath i path s = setResult i line.length (copyToTarget i line (hostStat path s).2) := by
  rw [statPath, show hostStat path s = (some line, (hostStat path s).2) from Prod.ext h rfl]
  exact if_pos hfits

/-- Where the host gives no line that fits, the result of Stat is 0 (R437, D20, D21). -/
theorem statPath_of_not_fits (h : ∀ line, (hostStat path s).1 = some line → fileLength i s < line.length) :
    statPath i path s = setResult i 0 (hostStat path s).2 := by
  cases hline : (hostStat path s).1 with
  | none => rw [statPath, show hostStat path s = (none, (hostStat path s).2) from Prod.ext hline rfl]
  | some line =>
    rw [statPath, show hostStat path s = (some line, (hostStat path s).2) from Prod.ext hline rfl]
    exact if_neg (Nat.not_le.2 (h line hline))

end Answers

/-! ## Read from Idle -/

/-- Settles O50: by the answer of the host; the first chunk is a transfer from the state after its call. -/
theorem readFromIdleOpensAndReads : Obligations.ReadFromIdleOpensAndReads := by
  intro i s path hm hidle hpath
  obtain ⟨o, ho, hcalls, -⟩ := hostRead_snd path s
  have htrigger := fileTrigger_read_of_idle hidle hpath
  rw [ho]
  refine ⟨hcalls, fun h => ⟨_, htrigger, ?error⟩, fun bytes h => ⟨_, htrigger, ?file⟩, fun lines h => ?stats⟩
  case error =>
    rw [readOpen_of_error i h, ho, ← hidle]
    exact ⟨rfl, transferred_nothing i o s⟩
  case file =>
    rw [readOpen_of_file i h, ho]
    simpa [fileChunk] using transferred_readFileChunk hm i o bytes 0
  case stats =>
    obtain ⟨n, hread, hn⟩ := transferred_readStatsChunk hm i o lines
    refine ⟨n, _, htrigger, ?_, hn⟩
    rw [readOpen_of_stats i h, ho]
    exact hread

/-! ## Stat and Delete -/

/-- Settles O52: a line that fits is a transfer in the state after the call, and all else is host side. -/
theorem statCopiesLineThatFitsAndDeleteChangesNoCoreState :
    Obligations.StatCopiesLineThatFitsAndDeleteChangesNoCoreState := by
  intro i s path hm hpath
  obtain ⟨o, ho, hcalls, -⟩ := hostStat_snd path s
  rw [ho]
  refine ⟨hcalls, ⟨_, fileTrigger_stat hpath, fun line h hfits => ?fits, fun h => ?nothing⟩, ?delete⟩
  case fits =>
    rw [statPath_of_fits i h hfits, ho]
    have hkeep : (copyToTarget i line { s with outside := o }).setFd i (s.fd i) =
        copyToTarget i line { s with outside := o } := by cases i <;> rfl
    exact hkeep ▸ transferred_copy i (s.fd i) line o hm hfits
  case nothing =>
    rw [statPath_of_not_fits i h, ho]
    exact ⟨transferred_nothing i o s, rfl⟩
  case delete =>
    obtain ⟨o, ho, hcalls, -⟩ := hostDelete_eq path s
    exact ⟨o, by rw [fileTrigger_delete hpath, ho], hcalls⟩

/-! ## Writes -/

/-- The state after Write from Idle has created the file, which it does unless it appends (R446, D25). -/
def createUnlessAppending (i : FileId) (path : Bytes) (s : State) : State :=
  if s.port.get (i.base + 0x07) = 0 then hostCreate path s else s

theorem createUnlessAppending_eq (i : FileId) (path : Bytes) (s : State) : ∃ o : Outside,
    createUnlessAppending i path s = { s with outside := o } ∧ o.calls = s.outside.calls ++
      (if s.port.get (i.base + 0x07) = 0 then [.fileCreate path] else []) := by
  unfold createUnlessAppending
  split
  · obtain ⟨o, ho, hcalls, -⟩ := hostCreate_eq path s
    exact ⟨o, ho, hcalls⟩
  · exact ⟨s.outside, rfl, (List.append_nil _).symm⟩

theorem writeOpen_of_ne_nil {path : Bytes} (hpath : path ≠ []) (i : FileId) (s : State) :
    writeOpen i path s = writeChunk i path ((createUnlessAppending i path s).setFd i (.writing path)) := by
  have happends : fileAppends i s = true ↔ ¬ s.port.get (i.base + 0x07) = 0 := decide_eq_true_iff
  rw [writeOpen, if_neg hpath, createUnlessAppending]
  split
  · next h => rw [if_neg (happends.1 h)]
  · next h => rw [if_pos (not_not.1 (mt happends.2 h))]

/-- `Source(B)` is the field at offset 0x0E (R431, C4). -/
theorem fileSource_eq (i : FileId) (s : State) :
    fileSource i s = joinBytes (s.port.get (i.base + 0x0E)) (s.port.get (i.base + 0x0F)) := by cases i <;> rfl

/-- A Write of a chunk: nothing but the result port and the host side changes, the host has one more call, and the
result is its count (R447, R454). -/
theorem writeChunk_reports {i : FileId} {s : State} {data : Bytes}
    (hdata : data = s.mem.readBytes (joinBytes (s.port.get (i.base + 0x0E)) (s.port.get (i.base + 0x0F)))
      (fileLength i s)) (path : Bytes) :
    writeChunk i path s =
      { s with port := (writeChunk i path s).port, outside := (hostWrite path data s).2.outside } ∧
    ResultIs i ((hostWrite path data s).1.getD 0) s (writeChunk i path s) ∧
    (hostWrite path data s).1.getD 0 ≤ fileLength i s ∧
    (writeChunk i path s).outside.calls = s.outside.calls ++ [.fileWrite path data] := by
  rw [← fileSource_eq] at hdata
  obtain ⟨hchanged, hresult⟩ := writeChunk_eq i path s
  rw [← hdata] at hchanged hresult
  refine ⟨hchanged, hresult, ?_, ?_⟩
  · have hbound := count_hostWrite_le path data s
    rwa [hdata, Memory.length_readBytes, ← hdata] at hbound
  · obtain ⟨o, ho, hcalls, -⟩ := hostWrite_snd path data s
    rw [hchanged, ho, hcalls]

/-- Settles O51: from Idle and in Writing the trigger writes one chunk, from Idle after it has created the file unless
it appends. -/
theorem writeEntersWritingAndReportsCount : Obligations.WriteEntersWritingAndReportsCount := by
  intro i s path data hdata
  refine ⟨fun hidle hpath hempty => ⟨_, fileTrigger_write_of_idle hidle hpath, ?empty⟩,
    fun hidle hpath hne => ⟨createUnlessAppending i path s, _, rfl, fileTrigger_write_of_idle hidle hpath, ?first⟩,
    fun hwriting => ⟨_, fileTrigger_write_of_writing hwriting, writeChunk_reports hdata path⟩⟩
  case empty =>
    rw [writeOpen, if_pos hempty]
    exact ⟨rfl, resultIs_setResult i (by decide) rfl⟩
  case first =>
    obtain ⟨o, ho, hcalls⟩ := createUnlessAppending_eq i path s
    rw [writeOpen_of_ne_nil hne, ← hcalls, ho]
    have hsame : fileLength i (State.setFd { s with outside := o } i (.writing path)) = fileLength i s := by
      cases i <;> rfl
    obtain ⟨hchanged, hresult, hbound, hcalled⟩ :=
      writeChunk_reports (i := i) (s := State.setFd { s with outside := o } i (.writing path)) (data := data)
        (by simpa [hsame] using hdata) path
    rw [hostWrite_setFd, outside_setFd] at hchanged
    rw [hostWrite_setFd] at hresult hbound
    refine ⟨hchanged.trans ?_, ?_, hsame ▸ hbound, ?_⟩
    · cases i <;> rfl
    · simpa only [ResultIs, port_setFd] using hresult
    · simpa only [outside_setFd] using hcalled

end Sys2Proof.Machine
end

section
/-!
PROOFS. Where a fault leaves pc (spec/60_exceptions.md). An instruction that is no jump leaves pc just past itself,
fault or not; a jump moves pc only once all its primitives have gone through.
-/

namespace Sys2Proof.Machine

/-! ## Instructions that are no jumps -/

/-- An instruction of the opcode byte alone that is no jump leaves pc just past it, fault or not (R171). -/
theorem exec_pc_of_immediate_eq_nil {i : Instr} {s t : State} (himm : i.immediate = [])
    (hi : i.base ∉ [some Base.jmp, some .jcn, some .jsr]) (e : exec i s = .next t) :
    t.pc = s.pc + BitVec.ofNat 16 (i.length - 1) := by
  obtain ⟨-, -, -, hpc⟩ := eachKindOfStateHasItsWriters i s t e
  rw [hpc hi himm, Instr.length_eq, himm]
  exact (BitVec.add_zero _).symm

/-- A LIT moves pc past its immediate before its push, which may overflow (R202, D11). -/
theorem litOp_pc {m : Mode} {imm : BitVec m.width.bits} {s t : State} (e : litOp m imm s = .next t) :
    t.pc = s.pc + BitVec.ofNat 16 m.width.bytes := by
  have h : WritesAs none { s with pc := s.pc + BitVec.ofNat 16 m.width.bytes } (litOp m imm s) :=
    (stackRules_writtenBy none m _).litOp imm { (WrittenBy.refl none s).selectKeep m with pc := fun _ => rfl }
  exact (h t e).pc (by decide)

/-- BRK, the no-ops and the LIT forms leave pc just past themselves, fault or not (R171, R202). -/
theorem exec_pc_of_special {i : Instr} (hi : i.Special) {s t : State} (e : exec i s = .next t) :
    t.pc = s.pc + BitVec.ofNat 16 (i.length - 1) := by
  cases hi with
  | brk | nop20 | nop40 | nop60 => exact exec_pc_of_immediate_eq_nil rfl (by decide) e
  | lit b => exact litOp_pc (m := ⟨true, false, false⟩) e
  | lit2 v => exact litOp_pc (m := ⟨true, false, true⟩) e
  | litr b => exact litOp_pc (m := ⟨true, true, false⟩) e
  | lit2r v => exact litOp_pc (m := ⟨true, true, true⟩) e

/-! ## Jumps -/

/-- In the middle of an instruction that has not yet moved pc: the run goes on, with pc at `pc`. -/
structure RunsAt (pc : Word) (_ _ : Nat) (u : State) : Prop where
  event : u.event = none
  pc    : u.pc = pc

/-- An answer that is a next state with an Error has pc at `pc`. -/
def FaultsAt (pc : Word) (r : Result) : Prop := ∀ t, r = .next t → ¬ NotErrored t → t.pc = pc

theorem faultsAt_of_event_none {pc : Word} {t : State} (h : t.event = none) : FaultsAt pc (.next t) := by
  intro t' e herr
  cases e
  exact absurd (notErrored_of_event_none h) herr

section RunsAt

variable {m : Mode} {pc : Word} {u : State} {p q : Nat}

theorem RunsAt.setStack (h : RunsAt pc p q u) (p' q' : Nat) (S : StackId) (st : Stack) :
    RunsAt pc p' q' (u.setStack S st) :=
  ⟨by simpa using h.event, by simpa using h.pc⟩

theorem RunsAt.raiseFault (h : RunsAt pc p q u) (kind : FaultKind) (S : StackId) :
    FaultsAt pc (.next (raiseFault kind S u)) := by
  intro t e _
  cases e
  simpa using h.pc

/-- An instruction that ends with a jump, wherever to, has not faulted. -/
theorem RunsAt.finish_jump (h : RunsAt pc p q u) (target : Word) : FaultsAt pc (finish { u with pc := target }) :=
  faultsAt_of_event_none h.event

theorem stackRules_runsAt (m : Mode) (pc : Word) : StackRules m (RunsAt pc) (FaultsAt pc) where
  underflow _ _ _ _ h _ := h.raiseFault _ _
  popped _ _ _ _ _ h _ := h.setStack ..
  overflow _ _ h := h.raiseFault _ _
  pushed _ _ _ _ h _ := h.setStack ..
  finished _ h := faultsAt_of_event_none h.event

/-- The last pop of a jump may fault, with pc not yet moved (R171). -/
theorem RunsAt.pop_finish_jump (h : RunsAt pc m.width.bytes 0 u) (target : BitVec m.width.bits → State → Word) :
    FaultsAt pc (pop (srcOf m) m.width u fun t u => finish { u with pc := target t u }) :=
  (stackRules_runsAt m pc).pop _ (p := 0) h rfl fun _ _ h => h.finish_jump _

end RunsAt

/-- A jump that faults has not moved pc: it sets pc after its last pop, and JSR pushes before that (R245, R246,
R247). -/
theorem baseOp_jump_faultsAt {base : Base} (hb : some base ∈ [some Base.jmp, some .jcn, some .jsr]) (m : Mode)
    {s : State} (he : s.event = none) : FaultsAt s.pc (baseOp base m s) := by
  have start (p q : Nat) : RunsAt s.pc p q (selectKeep m s) := ⟨by simpa using he, by simp⟩
  obtain rfl | rfl | rfl : base = .jmp ∨ base = .jcn ∨ base = .jsr := by simpa using hb
  · exact (start _ _).pop_finish_jump fun t u => jumpTarget u.pc m.width t
  · exact (stackRules_runsAt m s.pc).pop8 (start _ 0) rfl fun c u h =>
      h.pop_finish_jump fun t u => if conditionHolds c then jumpTarget u.pc m.width t else u.pc
  · rw [baseOp, jsrOp_eq]
    rcases push_cases (dstOf m) .short s.pc (selectKeep m s) _ with e | ⟨-, e⟩ <;> rw [e]
    · exact (start 0 0).raiseFault _ _
    · exact ((start 0 0).setStack ..).pop_finish_jump fun t u => jumpTarget u.pc m.width t

/-- Settles O34: a jump that faults has not moved pc, and every other instruction leaves pc past itself, fault or
not. -/
theorem faultLeavesPcPastInstruction : Obligations.FaultLeavesPcPastInstruction := by
  intro i s t he e herr
  rcases i.special_or_form with hspecial | ⟨base, m, rfl⟩
  · exact exec_pc_of_special hspecial e
  · by_cases hb : (Instr.form base m).base ∈ [some Base.jmp, some .jcn, some .jsr]
    · rw [Instr.base_form] at hb
      rw [exec_form] at e
      rw [baseOp_jump_faultsAt hb m he t e herr, Instr.length_form]
      exact (BitVec.add_zero _).symm
    · exact exec_pc_of_immediate_eq_nil (Instr.immediate_form base m) hb e

end Sys2Proof.Machine
end
